-- ==== Sys2Proof/Word.lean ====
section
/-! DEFINITION. The word types of KMP-CORE (spec 00_scope.md R10): a byte, a 16-bit value and the 32-bit word of every host access. -/

namespace Sys2Proof

/-- A byte: 8 bits (R10). -/
abbrev Byte := BitVec 8

/-- A 16-bit value: a meter register id or the CRC register (R30, R81). -/
abbrev Half := BitVec 16

/-- A 32-bit word: a command word or a host access (R13, R80). -/
abbrev Word := BitVec 32

end Sys2Proof
end

