-- ==== Sys2Proof/Syntax.lean ====
section
/-! DEFINITION. The ten commands of spec 30_encoding.md R84, the assembler's commands of R86 with operands not yet checked, the statements a program is written in (R86, R87), and the acts of the agents of 10_state.md R20. -/

namespace Sys2Proof

/-- A command of KMP-CORE, one constructor per row of the opcode table (R84).
Its operands are the fields of R81, so every term is encodable. -/
inductive Instr where
  /-- R215: do nothing. -/
  | nop
  /-- R107: clear the CRC register. -/
  | crcclr
  /-- R108: absorb one byte into the CRC register. -/
  | crcbyte (b : Byte)
  /-- R109: the CRC of the message buffer. -/
  | crcmsg
  /-- R125: build the request message and its transmit frame. -/
  | build (addr : Byte) (reg : Half)
  /-- R128: transmit the frame in TXBUF. -/
  | send
  /-- R148: receive one response into the raw buffer. -/
  | recv
  /-- R168: unstuff the raw buffer into the message buffer and check its CRC. -/
  | unstuff
  /-- R193: decode the message buffer as a reading of register `reg`. -/
  | decode (reg : Half)
  /-- R216: one complete read-register transaction. -/
  | readreg (addr : Byte) (reg : Half)
  deriving DecidableEq, Repr

/-- A command as the assembler reads it (R86): operands are numbers of any size.
`Asm.wf` says which ones assemble. -/
inductive Asm where
  | nop
  | crcclr
  | crcbyte (b : Nat)
  | crcmsg
  | build (addr reg : Nat)
  | send
  | recv
  | unstuff
  | decode (reg : Nat)
  | readreg (addr reg : Nat)
  deriving DecidableEq, Repr

/-- One statement of a program (R86, R87): the host's accesses, its wait, and the environment's acts that a program text places between them. -/
inductive Stmt where
  /-- `wr off, v` is `HostWrite(off, v)` (R13). -/
  | wr (off : Byte) (v : Word)
  /-- `rd off` is `HostRead(off)` (R13). -/
  | rd (off : Byte)
  /-- `wait`: repeat `rd 0x01` until bit 0 of the value read is 0. -/
  | wait
  /-- One byte of `peer b0, b1, ...`: the peer appends it to its receive queue. -/
  | peer (b : Byte)
  /-- `tick n`: `now_ms()` advances by `n`. -/
  | tick (n : Word)
  deriving DecidableEq, Repr

/-- One act of one agent (R20). The acts form one total order (R73), each atomic. -/
inductive Action where
  /-- The block takes its step, if it has one (R21). -/
  | block
  /-- The program: its next statement happens, or one poll of it where it is a `wait` (R86, R87). -/
  | program
  /-- The environment: the peer appends one byte to its receive queue (R50). -/
  | peerByte (b : Byte)
  /-- The environment: the peer loses the byte at this index of its queue (R50). -/
  | peerDrop (index : Nat)
  /-- The environment: from now on the peer accepts, or does not accept, a transmitted byte (R20, R127). -/
  | peerReady (ready : Bool)
  /-- The environment: `now_ms()` advances by `d` modulo 2^32 (R22). -/
  | tick (d : Word)
  /-- The reset input (R261). -/
  | reset
  deriving DecidableEq, Repr, Inhabited

end Sys2Proof
end

