-- ==== Sys2Proof/Config.lean ====
section
/-! DEFINITION. The implementation parameters of spec 00_scope.md R7, the bounds they obey (R8), the configuration every operation takes, which exists only within the bounds, and the free values the spec leaves open. -/

namespace Sys2Proof

/-- The parameters of R7, as numbers not yet checked. -/
structure Params where
  /-- TX_CAP: capacity of the transmit frame buffer in bytes. -/
  txCap : Nat
  /-- RAW_CAP: capacity of the raw receive buffer in bytes. -/
  rawCap : Nat
  /-- MSG_CAP: capacity of the decoded message buffer in bytes. -/
  msgCap : Nat
  /-- TIMEOUT_MS: the receive timeout in milliseconds. -/
  timeoutMs : Nat
  /-- MANT_W: width of the mantissa accumulator in bits. -/
  mantW : Nat
  /-- TIME_W: width of the time input and of the start-time register in bits. -/
  timeW : Nat
  /-- WIN: the entries of each host buffer window. -/
  win : Nat
  /-- FP, as `value32(X, e, s)` of R186: a configuration function of the signed mantissa, the decimal exponent and the sign of the scale. -/
  value32 : Int → Int → Bool → Word

/-- R8: the bounds the parameters obey.
The last two are not R8's (log entry 12): a time value fits the 32-bit word the host reads (R61), and the windows of R61 stay apart (R273). -/
def Params.wf (p : Params) : Bool :=
  decide (p.txCap ≤ p.win) && decide (p.rawCap ≤ p.win) && decide (p.msgCap ≤ p.win) &&
    decide (1 ≤ p.rawCap) && decide (p.timeoutMs < 2 ^ p.timeW) && decide (p.mantW = 32) &&
    decide (p.timeW ≤ 32) && decide (p.win ≤ 64)

/-- The parameters of a KMP-CORE: every operation that consults one takes these, and there are none outside the bounds of R8. -/
structure Config extends Params where
  /-- the bounds hold -/
  ok : toParams.wf = true

namespace Config

/-- A KMP-CORE of given parameters: "A model given values outside these bounds is outside this spec and refuses to build" (R8). -/
def build (p : Params) : Option Config := if h : p.wf = true then some ⟨p, h⟩ else none

/-- The byte a host read of a cell not written since reset returns, a fresh draw at each read (R37, U3; log entry 2). -/
opaque freeByte : Nat → Byte

/-- The next act, where the script names none: any agent may act next and the order is free (R20, R276; log entry 1). -/
opaque freeAction : Nat → Action

/-- What TX_IDX holds after a BUILD has set TX_LEN below it, a fresh draw at each BUILD, taken modulo TX_LEN + 1 (R29, R52; log entry 7). -/
opaque freeIndex : Nat → Nat

end Config

end Sys2Proof
end

