-- ==== Sys2Proof/Machine/Float.lean ====
section
/-! DEFINITION. The floating-point arithmetic of the value decoder (spec 44_value_decode.md): IEEE 754 binary32 rounding to nearest, ties to even, over exact natural numbers, and from it pow10_32 (R187), cvt32 (R188), fmul32 (R189) and value32 (R186). -/

namespace Sys2Proof.Machine

/-- The pattern of +infinity. -/
def infPattern : Word := 0x7F800000#32

/-- The NaN that `0 * infinity` gives (R189). -/
def nanPattern : Word := 0x7FC00000#32

/-- The quotient rounded to the nearest integer, ties to even. -/
def roundDiv (n d : Nat) : Nat :=
  let q := n / d
  let r := n % d
  if d < 2 * r ∨ (2 * r = d ∧ q % 2 = 1) then q + 1 else q

/-- `2^e <= n/d`, for an exponent of either sign. -/
def powLe (e : Int) (n d : Nat) : Bool :=
  match e with
  | .ofNat k => decide (2 ^ k * d ≤ n)
  | .negSucc k => decide (d ≤ n * 2 ^ (k + 1))

/-- The exponent `e` with `2^e <= n/d < 2^(e+1)`, for positive `n` and `d`. -/
def ratLog2 (n d : Nat) : Int :=
  let e : Int := (n.log2 : Int) - (d.log2 : Int)
  if powLe e n d then e else e - 1

/-- `n/d` counted in units of `2^u`, rounded to the nearest integer, ties to even. -/
def inUnits (u : Int) (n d : Nat) : Nat :=
  match u with
  | .ofNat k => roundDiv n (d * 2 ^ k)
  | .negSucc k => roundDiv (n * 2 ^ (k + 1)) d

/-- The binary32 pattern nearest to the non-negative rational `n/d`, ties to even: subnormals kept, overflow to infinity (R187).
With `e` the exponent (at least -126), the value is `m * 2^(e-23)` and its pattern is `(e+126) * 2^23 + m`, which also carries a rounding up to the next power of two. -/
def roundRat (n d : Nat) : Word :=
  if n = 0 then 0
  else
    let e := max (ratLog2 n d) (-126)
    let p := (e + 126).toNat * 2 ^ 23 + inUnits (e - 23) n d
    if infPattern.toNat ≤ p then infPattern else BitVec.ofNat 32 p

/-- A pattern with its sign bit set or not (R186, R189). -/
def withSign (s : Bool) (p : Word) : Word := if s then p ^^^ 0x80000000#32 else p

/-- `cvt32(X)`: the binary32 value nearest to the integer `X` (R188). -/
def cvt32 (x : Int) : Word := withSign (decide (x < 0)) (roundRat x.natAbs 1)

/-- What a binary32 pattern stands for, its sign apart. -/
inductive Magnitude where
  | nan
  | inf
  /-- `m * 2^(k - 149)` -/
  | fin (m k : Nat)
  deriving DecidableEq, Repr

/-- The magnitude of a pattern. -/
def magnitude (a : Word) : Magnitude :=
  let ex := (a.extractLsb' 23 8).toNat
  let fr := (a.extractLsb' 0 23).toNat
  if ex = 255 then (if fr = 0 then .inf else .nan)
  else if ex = 0 then .fin fr 0
  else .fin (fr + 2 ^ 23) (ex - 1)

/-- `fmul32(a, b)`: the product, rounded once, with the sign rules of R189.
A NaN operand, which never occurs, gives the same NaN (log entry 11). -/
def fmul32 (a b : Word) : Word :=
  let s := a.getLsbD 31 ^^ b.getLsbD 31
  match magnitude a, magnitude b with
  | .nan, _ => nanPattern
  | _, .nan => nanPattern
  | .inf, .inf => withSign s infPattern
  | .inf, .fin m _ => if m = 0 then nanPattern else withSign s infPattern
  | .fin m _, .inf => if m = 0 then nanPattern else withSign s infPattern
  | .fin m j, .fin n k => withSign s (roundRat (m * n * 2 ^ (j + k)) (2 ^ 298))

/-- R187's table, e = -45 to -25. -/
def pow10Low : List Word := [
  0x00000001#32, 0x00000007#32, 0x00000047#32, 0x000002ca#32, 0x00001be0#32, 0x000116c2#32, 0x000ae398#32,
  0x006ce3ee#32, 0x02081cea#32, 0x03aa2425#32, 0x0554ad2e#32, 0x0704ec3d#32, 0x08a6274c#32, 0x0a4fb11f#32,
  0x0c01ceb3#32, 0x0da24260#32, 0x0f4ad2f8#32, 0x10fd87b6#32, 0x129e74d2#32, 0x14461206#32, 0x15f79688#32]

/-- R187's table, e = -24 to -4. -/
def pow10MidLow : List Word := [
  0x179abe15#32, 0x19416d9a#32, 0x1af1c901#32, 0x1c971da0#32, 0x1e3ce508#32, 0x1fec1e4a#32, 0x219392ef#32,
  0x233877aa#32, 0x24e69595#32, 0x26901d7d#32, 0x283424dc#32, 0x29e12e13#32, 0x2b8cbccc#32, 0x2d2febff#32,
  0x2edbe6ff#32, 0x3089705f#32, 0x322bcc77#32, 0x33d6bf95#32, 0x358637bd#32, 0x3727c5ac#32, 0x38d1b717#32]

/-- R187's table, e = -3 to 17. -/
def pow10MidHigh : List Word := [
  0x3a83126f#32, 0x3c23d70a#32, 0x3dcccccd#32, 0x3f800000#32, 0x41200000#32, 0x42c80000#32, 0x447a0000#32,
  0x461c4000#32, 0x47c35000#32, 0x49742400#32, 0x4b189680#32, 0x4cbebc20#32, 0x4e6e6b28#32, 0x501502f9#32,
  0x51ba43b7#32, 0x5368d4a5#32, 0x551184e7#32, 0x56b5e621#32, 0x58635fa9#32, 0x5a0e1bca#32, 0x5bb1a2bc#32]

/-- R187's table, e = 18 to 38. -/
def pow10High : List Word := [
  0x5d5e0b6b#32, 0x5f0ac723#32, 0x60ad78ec#32, 0x6258d727#32, 0x64078678#32, 0x65a96816#32, 0x6753c21c#32,
  0x69045951#32, 0x6aa56fa6#32, 0x6c4ecb8f#32, 0x6e013f39#32, 0x6fa18f08#32, 0x7149f2ca#32, 0x72fc6f7c#32,
  0x749dc5ae#32, 0x76453719#32, 0x77f684df#32, 0x799a130c#32, 0x7b4097ce#32, 0x7cf0bdc2#32, 0x7e967699#32]

/-- R187's table from e = -45 to e = 38. -/
def pow10Table : List Word := pow10Low ++ pow10MidLow ++ pow10MidHigh ++ pow10High

/-- `pow10_32(e)`: the binary32 value nearest to 10^e, by R187's table. -/
def pow10_32 (e : Int) : Word :=
  if e ≤ -46 then 0
  else if 39 ≤ e then infPattern
  else pow10Table.getD (e + 45).toNat 0

/-- `value32(X, e, s)`: three steps, the sign on the scale and not on the mantissa (R186, R190). -/
def value32 (x : Int) (e : Int) (s : Bool) : Word :=
  fmul32 (cvt32 x) (withSign s (pow10_32 e))

end Sys2Proof.Machine
end

