-- ==== Sys2Proof/Machine/Hardware.lean ====
section
/-! DEFINITION. The parameter values this hardware takes (spec 00_scope.md R7, 44_value_decode.md R186). -/

namespace Sys2Proof.Machine

/-- This hardware: TX_CAP 20, RAW_CAP 50, MSG_CAP 40, TIMEOUT_MS 200, MANT_W 32, TIME_W 32, WIN 64 (R7), and FP as value32 by R186 to R189. -/
def hw : Config where
  txCap := 20
  rawCap := 50
  msgCap := 40
  timeoutMs := 200
  mantW := 32
  timeW := 32
  win := 64
  value32 := value32
  ok := by decide

end Sys2Proof.Machine
end

