-- ==== Sys2Proof/Machine/Constants.lean ====
section
/-! DEFINITION. The fixed constants of spec 00_scope.md R9 and the offsets of the register map of 20_memory.md R61. -/

namespace Sys2Proof.Machine

/-- POLY (R9). -/
def poly : Half := 0x1021#16

/-- PREFIX (R9). -/
def prefixByte : Byte := 0x80#8

/-- TERM (R9). -/
def termByte : Byte := 0x0d#8

/-- ESC (R9). -/
def escByte : Byte := 0x1b#8

/-- START (R9). -/
def startByte : Byte := 0x40#8

/-- ESCSET (R9). -/
def escSet : List Byte := [0x06#8, 0x0d#8, 0x1b#8, 0x40#8, 0x80#8]

/-- XORMASK (R9). -/
def xorMask : Byte := 0xff#8

/-- CMD_READ (R9). -/
def cmdRead : Byte := 0x10#8

/-- SUB_READ (R9). -/
def subRead : Byte := 0x01#8

/-- RSP_ADDR (R9). -/
def rspAddr : Byte := 0x3f#8

/-- RSP_CMD (R9). -/
def rspCmd : Byte := 0x10#8

/-- MANT_OFF (R9). -/
def mantOff : Nat := 7

/-- The number of bytes of REQ (R31). -/
def reqSize : Nat := 7

/-- The host offset of REQ[0] (R61). -/
def reqBase : Nat := 0x10

/-- The host offset of TXBUF[0] (R61). -/
def txBase : Nat := 0x40

/-- The host offset of RAW[0] (R61). -/
def rawBase : Nat := 0x80

/-- The host offset of MSG[0] (R61). -/
def msgBase : Nat := 0xC0

/-- The value of ID, the ASCII bytes "KMP1" (R47). -/
def idWord : Word := 0x4B4D5031#32

end Sys2Proof.Machine
end

