-- ==== Sys2Proof/Machine/State.lean ====
section
/-! DEFINITION. The state of spec 10_state.md R53 as plain data, the environment state beside it, the model's own schedule, the faults and the refusals, and the state after reset (70_reset_and_hazards.md R260). -/

namespace Sys2Proof.Machine

/-- STATUS.PHASE (R26, R210). The value 7 is never written and has no constructor. -/
inductive Phase where
  /-- 0: first step not yet taken, NOP, or an illegal command. -/
  | noPhase
  /-- 1 -/
  | build
  /-- 2 -/
  | send
  /-- 3 -/
  | recv
  /-- 4 -/
  | unstuff
  /-- 5 -/
  | decode
  /-- 6 -/
  | crc
  deriving DecidableEq, Repr

/-- STATUS.ERR (R230). The codes 8 to 15 are never produced and have no constructor. -/
inductive ErrorKind where
  /-- 0 -/
  | ok
  /-- 1 -/
  | timeout
  /-- 2 -/
  | crcError
  /-- 3 -/
  | malformedHeader
  /-- 4 -/
  | registerMismatch
  /-- 5 -/
  | capacityExceeded
  /-- 6 -/
  | malformedLength
  /-- 7 -/
  | illegalCommand
  deriving DecidableEq, Repr

/-- The fields of STATUS (R26). Its other bits read 0 and are never written. -/
structure Status where
  /-- bit 0 -/
  busy : Bool
  /-- bits 3:1 -/
  phase : Phase
  /-- bit 4 -/
  seq : Bool
  /-- bits 11:8 -/
  err : ErrorKind
  /-- bits 15:12 -/
  info : BitVec 4
  /-- bit 16: VALUE, MANT, EXP and SGN hold a result -/
  vv : Bool
  /-- bit 17: the last UNSTUFF met a malformed escape -/
  escw : Bool
  /-- bit 18: a host write was ignored -/
  rej : Bool
  deriving DecidableEq, Repr

/-- The result registers of the value decoder (R38 to R42). -/
structure Reading where
  /-- MANT, the 32-bit pattern of the mantissa -/
  mant : Word
  /-- EXP, two's complement -/
  exp : Byte
  /-- SGN -/
  sgn : Bool
  /-- SE_RAW, message byte 6 -/
  seRaw : Byte
  /-- NLEN, message byte 5 -/
  nLen : Byte
  /-- VALUE, a binary32 pattern -/
  value : Word
  deriving DecidableEq, Repr

/-- The state outside the block that it observes (R50, R53): the peer and the time input. -/
structure Environment where
  /-- the peer's receive queue, oldest byte first -/
  rxQueue : List Byte
  /-- the peer accepts a byte presented in this step -/
  txReady : Bool
  /-- the bytes transmitted so far, oldest first -/
  wire : List Byte
  /-- `now_ms()` -/
  nowMs : Word
  deriving DecidableEq, Repr

/-- The four byte buffers (R31 to R34). -/
inductive Buffer where
  | req
  | tx
  | raw
  | msg
  deriving DecidableEq, Repr

/-- Byte storage: (host offset, byte) pairs, offsets strictly rising.
An offset that is not listed has not been written since reset and has no value (R37). -/
abbrev Memory := List Host.Cell

/-- The state: R53, the environment, and the model's own schedule. -/
structure State where
  /-- CMD (R25) -/
  cmd : Word
  /-- STATUS (R26) -/
  status : Status
  /-- ENTRY (R28) -/
  entry : Bool
  /-- TX_IDX (R29) -/
  txIdx : Byte
  /-- TX_LEN (R32) -/
  txLen : Byte
  /-- RAW_LEN (R33) -/
  rawLen : Byte
  /-- MSG_LEN (R34) -/
  msgLen : Byte
  /-- CRC (R30) -/
  crc : Half
  /-- the cells of REQ, TXBUF, RAW and MSG that have been written, by host offset (R31 to R34, R61) -/
  mem : Memory
  /-- MANT, EXP, SGN, SE_RAW, NLEN, VALUE (R38 to R42) -/
  result : Reading
  /-- ESC_CNT (R44) -/
  escCnt : Byte
  /-- ESC_BAD (R44) -/
  escBad : Byte
  /-- START_MS (R45) -/
  startMs : Word
  /-- ELAPSED (R46) -/
  elapsed : Word
  /-- the peer and the time input (R53) -/
  env : Environment
  /-- the program: its statements still to come, the first one next (R86, R227; log entry 14) -/
  program : List Stmt
  /-- the model's own: the acts still to come, the first one next (log entry 1) -/
  script : List Action
  /-- the model's own: what the host has read, (offset, word), oldest first (log entry 5) -/
  hostLog : List (Byte × Word)
  /-- the model's own: the counter of free draws (log entries 1, 2 and 7) -/
  draws : Nat
  deriving DecidableEq, Repr

/-- Why the machine stops. -/
inductive Fault where
  /-- A command step reads a buffer cell that has not been written since reset (or lies beyond its buffer, which no run reaches).
  Raised by CRCMSG, SEND, UNSTUFF, DECODE and the same phases of READREG.
  The spec: "a command step that reads such a cell faults" (R37, U3).
  Safe: the hardware goes on with an unspecified byte. -/
  | unwrittenCell (buffer : Buffer) (index : Nat)
  /-- A step starts with BUSY = 1 in a phase that has no later step.
  Raised by the later steps of a command, in no state a run reaches.
  The spec: such a step "cannot happen" (R213).
  Safe: the model stops. -/
  | noPhaseStep (phase : Phase)
  deriving DecidableEq, Repr

/-- Why an instruction has no meaning here. -/
inductive Refusal where
  /-- Raised by an arm of exec whose instruction is not modelled yet; no arm is.
  Safe: the model stops. -/
  | notModelled (mnemonic : String)
  deriving DecidableEq, Repr

/-- What a step answers. -/
abbrev StepResult := Host.Outcome State Fault Refusal

/-- The state right after reset (R260), with the environment of spec 95_test_vectors.md section 0 (log entry 4) no program and nothing scheduled (log entries 5 and 14). -/
def State.reset : State where
  cmd := 0
  status :=
    { busy := false, phase := .noPhase, seq := false, err := .ok, info := 0,
      vv := false, escw := false, rej := false }
  entry := false
  txIdx := 0
  txLen := 0
  rawLen := 0
  msgLen := 0
  crc := 0
  mem := []
  result := { mant := 0, exp := 0, sgn := false, seRaw := 0, nLen := 0, value := 0 }
  escCnt := 0
  escBad := 0
  startMs := 0
  elapsed := 0
  env := { rxQueue := [], txReady := true, wire := [], nowMs := 0 }
  program := []
  script := []
  hostLog := []
  draws := 0

end Sys2Proof.Machine
end

