-- ==== Sys2Proof/Machine/Ops.lean ====
section
/-! DEFINITION. The named operations over byte storage, buffers and registers, and the three ways a phase ends: raise (spec 00_scope.md R15 with 60_exceptions.md R233), complete (R16) and phase_done (45_transaction.md R214). -/

namespace Sys2Proof.Machine

/-- The byte at an address, or none where nothing has been written since reset (R37). -/
def Memory.read : Memory → Nat → Option Byte
  | [], _ => none
  | (k, v) :: rest, a => if k = a then some v else Memory.read rest a

/-- Write one byte, keeping the addresses strictly rising. -/
def Memory.write : Memory → Nat → Byte → Memory
  | [], a, b => [(a, b)]
  | (k, v) :: rest, a, b =>
    if a < k then (a, b) :: (k, v) :: rest
    else if a = k then (a, b) :: rest
    else (k, v) :: Memory.write rest a b

/-- Write bytes at consecutive addresses, first byte first. -/
def Memory.writeBytes : Memory → Nat → List Byte → Memory
  | m, _, [] => m
  | m, a, b :: bs => Memory.writeBytes (Memory.write m a b) (a + 1) bs

/-- The canonical form: addresses strictly rising. -/
def Memory.wf : Memory → Bool
  | [] => true
  | [_] => true
  | c :: d :: rest => decide (c.1 < d.1) && Memory.wf (d :: rest)

/-- The host offset of a buffer's first cell (R61). -/
def Buffer.base : Buffer → Nat
  | .req => reqBase
  | .tx => txBase
  | .raw => rawBase
  | .msg => msgBase

/-- The number of cells of a buffer (R31 to R34). -/
def Buffer.cap (c : Config) : Buffer → Nat
  | .req => reqSize
  | .tx => c.txCap
  | .raw => c.rawCap
  | .msg => c.msgCap

/-- Cell `i` of a buffer: none where it has not been written since reset, or lies at or above the buffer's capacity (R35). -/
def State.cell (s : State) (c : Config) (b : Buffer) (i : Nat) : Option Byte :=
  if i < b.cap c then Memory.read s.mem (b.base + i) else none

/-- Cells `i` to `i + n - 1` of a buffer. -/
def State.cells (s : State) (c : Config) (b : Buffer) (i : Nat) : Nat → List (Option Byte)
  | 0 => []
  | n + 1 => s.cell c b i :: s.cells c b (i + 1) n

/-- Store bytes into a buffer from cell `i` on. -/
def State.store (s : State) (b : Buffer) (i : Nat) (bytes : List Byte) : State :=
  { s with mem := Memory.writeBytes s.mem (b.base + i) bytes }

/-- A command step reads one cell: it faults where the cell has not been written since reset (R37). -/
def needCell (c : Config) (b : Buffer) (i : Nat) (s : State) (k : Byte → StepResult) : StepResult :=
  match s.cell c b i with
  | some v => k v
  | none => .fault (.unwrittenCell b i)

/-- A command step reads cells `i` to `i + n - 1`, in order. -/
def needCells (c : Config) (b : Buffer) (i : Nat) : Nat → State → (List Byte → StepResult) → StepResult
  | 0, _, k => k []
  | n + 1, s, k => needCell c b i s fun v => needCells c b (i + 1) n s fun vs => k (v :: vs)

/-- The first statement of every phase: `STATUS.PHASE <- p` (R213). -/
def State.setPhase (s : State) (p : Phase) : State :=
  { s with status := { s.status with phase := p } }

/-- `CRC <- v` (R30). -/
def State.setCrc (s : State) (v : Half) : State := { s with crc := v }

/-- TX_IDX under a new TX_LEN: it stays, unless that would leave it above TX_LEN, where it is a free value within R29's bound (R29, R52; log entry 7). -/
def State.indexWithin (s : State) (n : Byte) : Byte :=
  if s.txIdx ≤ n then s.txIdx else BitVec.ofNat 8 (Config.freeIndex s.draws % (n.toNat + 1))

/-- `TX_LEN <- n` (R32), with `TX_IDX <= TX_LEN` kept (R52).
It uses up one free draw (log entry 7). -/
def State.setTxLen (s : State) (n : Byte) : State :=
  { s with txLen := n, txIdx := s.indexWithin n, draws := s.draws + 1 }

/-- `RAW_LEN <- n` (R33). -/
def State.setRawLen (s : State) (n : Byte) : State := { s with rawLen := n }

/-- `MSG_LEN <- n` (R34). -/
def State.setMsgLen (s : State) (n : Byte) : State := { s with msgLen := n }

/-- `STATUS.SEQ <- 1`: a READREG begins (R213). -/
def State.setSeq (s : State) : State := { s with status := { s.status with seq := true } }

/-- The length register of the buffer the failing phase was producing is set to 0 (R233).
With TX_LEN = 0, R29's bound leaves 0 for TX_IDX (log entry 7). -/
def State.zeroOutput (s : State) : State :=
  match s.status.phase with
  | .noPhase => s
  | .build => { s with txLen := 0, txIdx := 0 }
  | .send => s
  | .recv => s.setRawLen 0
  | .unstuff => s.setMsgLen 0
  | .decode => s
  | .crc => s

/-- What `raise` and `complete()` share: the outcome is recorded and the command ends (R15, R16). -/
def State.finish (s : State) (e : ErrorKind) (info : BitVec 4) : State :=
  { s with
    entry := false
    status := { s.status with busy := false, seq := false, err := e, info := info } }

/-- `raise <Error>(info)`: an error ends the executing command at once (R15, R233).
This is the whole of taking an error: there is no trap, no saved state and no vector (R236). -/
def State.raise (s : State) (e : ErrorKind) (info : BitVec 4) : State :=
  s.zeroOutput.finish e info

/-- `complete()`: the executing command ends with success (R16).
Going on after an error is the next command: there is no return (R237). -/
def State.complete (s : State) : State := s.finish .ok 0

/-- The phase after a phase below 5: `STATUS.PHASE + 1` (R214). -/
def Phase.following : Phase → Option Phase
  | .noPhase => some .build
  | .build => some .send
  | .send => some .recv
  | .recv => some .unstuff
  | .unstuff => some .decode
  | .decode => none
  | .crc => none

/-- The next phase starts in the next block step (R214). -/
def State.enterPhase (s : State) (p : Phase) : State :=
  { s with entry := true, status := { s.status with phase := p } }

/-- `phase_done()`: a READREG goes on to its next phase, every other command completes (R214). -/
def State.phaseDone (s : State) : State :=
  match s.status.seq, s.status.phase.following with
  | true, some p => s.enterPhase p
  | true, none => s.complete
  | false, _ => s.complete

end Sys2Proof.Machine
end

