-- ==== Sys2Proof/Machine/Operands.lean ====
section
/-! DEFINITION. The operand forms of KMP-CORE beside the command word's fields (Decode.lean): the numbers the value decoder takes from message bytes (spec 44_value_decode.md R182, R184, R185) and the two bytes of a 16-bit value in wire order (20_memory.md R66). -/

namespace Sys2Proof.Machine

/-- The high byte `v[15:8]`, which goes on the wire first (R66). -/
def hiByte (v : Half) : Byte := v.extractLsb' 8 8

/-- The low byte `v[7:0]`. -/
def loByte (v : Half) : Byte := v.extractLsb' 0 8

/-- Two wire bytes as a 16-bit value, high byte first (R66, R182). -/
def half (hi lo : Byte) : Half := hi ++ lo

/-- One step of the mantissa accumulator of MANT_W bits: `((x << 8) | byte) mod 2^MANT_W` (R184). -/
def mantissaStep {w : Nat} (x : BitVec w) (b : Byte) : BitVec w := (x <<< 8) ||| b.setWidth w

/-- The mantissa pattern of the mantissa bytes, most significant first, in an accumulator of `w` bits (R184). -/
def mantissa (w : Nat) (bytes : List Byte) : BitVec w := bytes.foldl mantissaStep 0

/-- A time value on the TIME_W bits of the time input and of START_MS and ELAPSED, zero-extended to the word that holds it (R7, R22, R61). -/
def timeBits (c : Config) (v : Word) : Word := (v.setWidth c.timeW).setWidth 32

/-- The exponent magnitude: the low 6 bits of the sign/exponent byte (R185). -/
def expMag (se : Byte) : Nat := (se &&& 0x3f#8).toNat

/-- The signed decimal exponent: negated if bit 0x40 is set (R185). -/
def exponent (se : Byte) : Int := if se.getLsbD 6 then -(expMag se : Int) else (expMag se : Int)

/-- The sign of the scale: bit 0x80 of the sign/exponent byte (R185). -/
def scaleSign (se : Byte) : Bool := se.getLsbD 7

end Sys2Proof.Machine
end

