-- ==== Sys2Proof/Machine/Receive.lean ====
section
/-! DEFINITION. The receive state machine (spec 42_receive.md): RX_INIT (R141), RX_WAIT (R142) and which of the two a step of the RECV phase is (R140). -/

namespace Sys2Proof.Machine

/-- RX_INIT step: flush, sample the time, start an empty raw buffer (R141). -/
def rxInit (c : Config) (s : State) : State :=
  { s.setPhase .recv with
    env := { s.env with rxQueue := [] }
    startMs := timeBits c s.env.nowMs
    elapsed := 0
    rawLen := 0
    entry := false }

/-- `(now_ms() - START_MS) mod 2^TIME_W` (R142, and R151 for a clock that wraps).
DEDUCED: R151 says that a clock that steps back makes the next RX_WAIT step time out; by R142 and R147 one that steps back by no more than the time already elapsed does not, and the model follows R142 (log entry 23). -/
def State.sinceStart (s : State) (c : Config) : Word := timeBits c (s.env.nowMs - s.startMs)

/-- RX_WAIT up to the timeout test: PHASE and ELAPSED (R142). -/
def State.waited (s : State) (c : Config) : State := { s.setPhase .recv with elapsed := s.sinceStart c }

/-- `rx_pop()` leaves the rest of the queue (R14). -/
def State.popped (s : State) (rest : List Byte) : State :=
  { s with env := { s.env with rxQueue := rest } }

/-- `RAW[RAW_LEN] <- b` and `RAW_LEN <- RAW_LEN + 1` (R142). -/
def State.appended (s : State) (b : Byte) : State :=
  (s.store .raw s.rawLen.toNat [b]).setRawLen (s.rawLen + 1)

/-- A popped byte that is not the start marker: the capacity test, the append, the terminator test (R142, R145, R146).
The capacity test is `RAW_LEN >= RAW_CAP`, the same as R142's `=` wherever `RAW_LEN <= RAW_CAP` (log entry 10). -/
def appendRaw (c : Config) (b : Byte) (s : State) : State :=
  if c.rawCap ≤ s.rawLen.toNat then s.raise .capacityExceeded 2
  else if b = termByte then (s.appended b).phaseDone
  else s.appended b

/-- RX_WAIT after the timeout test: exactly one byte per step, every 0x40 dropped (R142, R144). -/
def takeByte (c : Config) (s : State) : State :=
  match s.env.rxQueue with
  | [] => s
  | b :: rest => if b = startByte then s.popped rest else appendRaw c b (s.popped rest)

/-- RX_WAIT step: the timeout test comes first (R142, R143, R147). -/
def rxWait (c : Config) (s : State) : State :=
  if c.timeoutMs < (s.sinceStart c).toNat then (s.waited c).raise .timeout 0 else takeByte c (s.waited c)

/-- RECV step: RX_INIT and RX_WAIT are told apart by ENTRY (R140). -/
def recvStep (c : Config) (s : State) : State := if s.entry then rxInit c s else rxWait c s

end Sys2Proof.Machine
end

