-- ==== Sys2Proof/Machine/Crc.lean ====
section
/-! DEFINITION. The CRC unit (spec 40_crc.md): the function crc16 (R100 to R102) and the commands CRCCLR, CRCBYTE and CRCMSG (R107 to R109), at the parameters of any KMP-CORE. -/

namespace Sys2Proof.Machine

/-- One bit step `crc_bit(r, d)`: shift the data bit in, then test bit 16 (R101). -/
def crcBit (r : Half) (d : Bool) : Half :=
  let t : BitVec 17 := (r.setWidth 17 <<< 1) ||| (BitVec.ofBool d).setWidth 17
  if t.getLsbD 16 then t.setWidth 16 ^^^ poly else t.setWidth 16

/-- One byte step: eight bit steps, bit 7 of the byte first (R102). -/
def crcByte (r : Half) (b : Byte) : Half :=
  [7, 6, 5, 4, 3, 2, 1, 0].foldl (fun r k => crcBit r (b.getLsbD k)) r

/-- `crc16(s)` (R100). -/
def crc16 (bytes : List Byte) : Half := bytes.foldl crcByte 0

/-- CRCCLR (R107). -/
def execCrcclr (s : State) : StepResult :=
  .next ((s.setPhase .crc).setCrc 0).complete

/-- CRCBYTE `b` (R108). -/
def execCrcbyte (b : Byte) (s : State) : StepResult :=
  .next ((s.setPhase .crc).setCrc (crcByte s.crc b)).complete

/-- CRCMSG at parameters `c` (R109): it computes and does not check. -/
def crcMsgPhase (c : Config) (s : State) : StepResult :=
  needCells c .msg 0 s.msgLen.toNat s fun bytes =>
    .next ((s.setPhase .crc).setCrc (crc16 bytes)).complete

end Sys2Proof.Machine
end

