-- ==== Sys2Proof/Machine/Frame.lean ====
section
/-! DEFINITION. The stuffer, the request builder and the transmit streamer (spec 41_frame_encode.md): stuff, frame, request, and the BUILD and SEND phases. -/

namespace Sys2Proof.Machine

/-- `is_esc(b)`: `b` is a member of ESCSET (R17). -/
def isEsc (b : Byte) : Bool := escSet.contains b

/-- `stuff(b)`: what stands for `b` on the wire (R120). -/
def stuff (b : Byte) : List Byte := if isEsc b then [escByte, b ^^^ xorMask] else [b]

/-- The stuffed bytes of a message, without prefix and terminator. -/
def stuffAll (m : List Byte) : List Byte := m.flatMap stuff

/-- `frame(M)`: prefix, stuffed message, terminator (R121). -/
def frame (m : List Byte) : List Byte := prefixByte :: stuffAll m ++ [termByte]

/-- The first five bytes of a request (R123). -/
def requestBody (addr : Byte) (reg : Half) : List Byte := [addr, cmdRead, subRead, hiByte reg, loByte reg]

/-- The CRC of a request, over the body and two zero placeholders (R123). -/
def requestCrc (addr : Byte) (reg : Half) : Half := crc16 (requestBody addr reg ++ [0, 0])

/-- `request(addr, reg)`: the placeholders overwritten by the CRC, high byte first (R123). -/
def request (addr : Byte) (reg : Half) : List Byte :=
  requestBody addr reg ++ [hiByte (requestCrc addr reg), loByte (requestCrc addr reg)]

/-- BUILD after the request is made: REQ and CRC are written whether or not the frame fits (R125). -/
def State.putRequest (s : State) (addr : Byte) (reg : Half) : State :=
  ((s.setPhase .build).store .req 0 (request addr reg)).setCrc (requestCrc addr reg)

/-- BUILD where the frame fits: it is stored and its length kept (R125). -/
def State.putFrame (s : State) (f : List Byte) : State :=
  (s.store .tx 0 f).setTxLen (BitVec.ofNat 8 f.length)

/-- BUILD phase, one step (R125). -/
def buildPhase (c : Config) (addr : Byte) (reg : Half) (s : State) : State :=
  let f := frame (request addr reg)
  let s := s.putRequest addr reg
  if c.txCap < f.length then s.raise .capacityExceeded 1
  else (s.putFrame f).phaseDone

/-- The entry of a SEND phase: its first step starts at TXBUF[0] (R127). -/
def State.sendEntry (s : State) : State :=
  if s.entry then { s.setPhase .send with txIdx := 0, entry := false } else s.setPhase .send

/-- `tx_emit(b)` and the advance of TX_IDX (R14, R127). -/
def State.emit (s : State) (b : Byte) : State :=
  { s with txIdx := s.txIdx + 1, env := { s.env with wire := s.env.wire ++ [b] } }

/-- The end of a SEND step in which a byte left (R127). -/
def State.afterEmit (s : State) : State := if s.txIdx = s.txLen then s.phaseDone else s

/-- SEND step (R127). -/
def sendStep (c : Config) (s : State) : StepResult :=
  let s := s.sendEntry
  if s.txIdx = s.txLen then .next s.phaseDone
  else if s.env.txReady then needCell c .tx s.txIdx.toNat s fun b => .next (s.emit b).afterEmit
  else .next s

end Sys2Proof.Machine
end

