-- ==== Sys2Proof/Machine/Unstuff.lean ====
section
/-! DEFINITION. The unstuffer and the CRC check (spec 43_frame_decode.md): the pass (R160 to R165) and the UNSTUFF phase (R166, R167). -/

namespace Sys2Proof.Machine

/-- What the pass has produced so far: the message bytes written from MSG[0] on, and the record of malformed escapes (R165). -/
structure Pass where
  msg : List Byte
  escw : Bool
  cnt : Byte
  bad : Byte
  deriving DecidableEq, Repr

/-- The start of a pass: nothing written, the record cleared (R167). -/
def Pass.start : Pass := { msg := [], escw := false, cnt := 0, bad := 0 }

/-- `note_bad(v)` for a value that is not in ESCSET (R161, R165). -/
def Pass.note (p : Pass) (v : Byte) : Pass :=
  if isEsc v then p else { p with escw := true, cnt := p.cnt + 1, bad := v }

/-- The write of `put(v)` (R161). -/
def Pass.put (p : Pass) (v : Byte) : Pass := { p with msg := p.msg ++ [v] }

/-- How a pass ends. -/
inductive PassEnd where
  /-- every source byte is consumed -/
  | done (p : Pass)
  /-- a byte was to be written at the capacity (R164) -/
  | overflow (p : Pass)
  /-- RAW[i] is read and has not been written since reset (R37) -/
  | unwritten (i : Nat)
  deriving DecidableEq, Repr

/-- `unstuff_pass()` (R161) from source index `i`, over the cells from RAW[i] to the last raw cell.
The last cell is outside the pass, whatever it holds (R160), and is read only as the partner of a dangling 0x1b (R162). -/
def unstuffPass (cap : Nat) : Nat → List (Option Byte) → Pass → PassEnd
  | _, [], p => .done p
  | _, [_], p => .done p
  | i, none :: _ :: _, _ => .unwritten i
  | i, some b :: next :: rest, p =>
    if b = escByte then
      match next with
      | none => .unwritten (i + 1)
      | some y =>
        let v := y ^^^ xorMask
        if (p.note v).msg.length < cap then unstuffPass cap (i + 2) rest ((p.note v).put v)
        else .overflow (p.note v)
    else if p.msg.length < cap then unstuffPass cap (i + 1) (next :: rest) (p.put b)
    else .overflow p

/-- What the pass leaves in the state: the cells it wrote and its record, whether it later succeeds or fails (R164, R165). -/
def State.keepPass (s : State) (p : Pass) : State :=
  { s.store .msg 0 p.msg with
    status := { s.status with escw := p.escw }
    escCnt := p.cnt
    escBad := p.bad }

/-- The CRC check after the pass (R166). -/
def State.checkCrc (s : State) (msg : List Byte) : State :=
  let s := s.setCrc (crc16 msg)
  if crc16 msg = 0 then (s.setMsgLen (BitVec.ofNat 8 msg.length)).phaseDone else s.raise .crcError 0

/-- UNSTUFF phase, one step (R167). -/
def unstuffPhase (c : Config) (s : State) : StepResult :=
  let s := s.setPhase .unstuff
  match unstuffPass c.msgCap 0 (s.cells c .raw 0 s.rawLen.toNat) .start with
  | .unwritten i => .fault (.unwrittenCell .raw i)
  | .overflow p => .next ((s.keepPass p).raise .capacityExceeded 3)
  | .done p => .next ((s.keepPass p).checkCrc p.msg)

end Sys2Proof.Machine
end

