-- ==== Sys2Proof/Machine/Value.lean ====
section
/-! DEFINITION. The value decoder (spec 44_value_decode.md): the checks in their order (R181 to R183, R192) and the DECODE phase. -/

namespace Sys2Proof.Machine

/-- The result registers of a successful DECODE phase (R192). -/
def reading (c : Config) (n se : Byte) (bytes : List Byte) : Reading :=
  { mant := (mantissa c.mantW bytes).setWidth 32
    exp := BitVec.ofInt 8 (exponent se)
    sgn := scaleSign se
    seRaw := se
    nLen := n
    value := c.value32 (mantissa c.mantW bytes).toInt (exponent se) (scaleSign se) }

/-- The result is written and VV set (R192). -/
def State.putReading (s : State) (r : Reading) : State :=
  { s with result := r, status := { s.status with vv := true } }

/-- DECODE from the second length group on: bytes 5 and 6 and the mantissa (R183 to R185, R192). -/
def decodeNumber (c : Config) (s : State) : StepResult :=
  if s.msgLen.toNat < 7 then .next (s.raise .malformedLength 3)
  else
    needCell c .msg 5 s fun n =>
      if s.msgLen.toNat < mantOff + n.toNat then .next (s.raise .malformedLength 4)
      else
        needCell c .msg 6 s fun se =>
          needCells c .msg mantOff n.toNat s fun bytes => .next (s.putReading (reading c n se bytes)).phaseDone

/-- DECODE from the register check on (R182, R183, R192). -/
def decodeRegister (c : Config) (reg : Half) (s : State) : StepResult :=
  if s.msgLen.toNat < 4 then .next (s.raise .malformedLength 2)
  else
    needCell c .msg 2 s fun hi =>
      needCell c .msg 3 s fun lo =>
        if half hi lo ≠ reg then .next (s.raise .registerMismatch 0) else decodeNumber c s

/-- DECODE phase with the requested register id, one step (R192).
The header test reads both bytes (R181; log entry 9). -/
def decodePhase (c : Config) (reg : Half) (s : State) : StepResult :=
  let s := s.setPhase .decode
  if s.msgLen.toNat < 2 then .next (s.raise .malformedLength 1)
  else
    needCell c .msg 0 s fun b0 =>
      needCell c .msg 1 s fun b1 =>
        if b0 ≠ rspAddr ∨ b1 ≠ rspCmd then .next (s.raise .malformedHeader 0)
        else decodeRegister c reg s

end Sys2Proof.Machine
end

