-- ==== Sys2Proof/Machine/Commands.lean ====
section
/-! DEFINITION. The commands on this hardware: NOP (spec 45_transaction.md R215), CRCMSG, BUILD, SEND, RECV, UNSTUFF, DECODE over their phases, and READREG as the chain of phases (R213, R214, R216). CRCCLR and CRCBYTE, which consult no parameter, are in Crc.lean. -/

namespace Sys2Proof.Machine

/-- A later step of a multi-step command, by PHASE (R213).
`reg` is the register id the DECODE phase compares.
A step in phase 0, 1 or 6 cannot happen here and has no pseudocode (log entry 8). -/
def phaseStep (c : Config) (reg : Half) (s : State) : StepResult :=
  match s.status.phase with
  | .noPhase => .fault (.noPhaseStep .noPhase)
  | .build => .fault (.noPhaseStep .build)
  | .send => sendStep c s
  | .recv => .next (recvStep c s)
  | .unstuff => unstuffPhase c s
  | .decode => decodePhase c reg s
  | .crc => .fault (.noPhaseStep .crc)

/-- The first step of READREG: `STATUS.SEQ <- 1`, then the BUILD phase (R213). -/
def readregStart (c : Config) (addr : Byte) (reg : Half) (s : State) : State :=
  buildPhase c addr reg s.setSeq

/-- NOP (R215): `complete()`, nothing else. -/
def execNop (s : State) : StepResult := .next s.complete

/-- CRCMSG (R109). -/
def execCrcmsg (s : State) : StepResult := crcMsgPhase hw s

/-- BUILD (R125). -/
def execBuild (addr : Byte) (reg : Half) (s : State) : StepResult := .next (buildPhase hw addr reg s)

/-- SEND (R127, R128): one step of the phase, the first or a later one. -/
def execSend (s : State) : StepResult := sendStep hw s

/-- RECV (R148): one step of the phase, RX_INIT or RX_WAIT. -/
def execRecv (s : State) : StepResult := .next (recvStep hw s)

/-- UNSTUFF (R168). -/
def execUnstuff (s : State) : StepResult := unstuffPhase hw s

/-- DECODE (R193). -/
def execDecode (reg : Half) (s : State) : StepResult := decodePhase hw reg s

/-- READREG (R216): one step of the transaction, the first (PHASE = 0) or the one its PHASE says. -/
def execReadreg (addr : Byte) (reg : Half) (s : State) : StepResult :=
  if s.status.phase = .noPhase then .next (readregStart hw addr reg s) else phaseStep hw reg s

end Sys2Proof.Machine
end

