-- ==== Sys2Proof/Machine/Dispatch.lean ====
section
/-! DEFINITION. One arm per command: what one block step of the command does to the state. -/

namespace Sys2Proof.Machine

/-- One block step of a command (spec 45_transaction.md R213): its first step, or a later one where the state's PHASE and ENTRY say so (log entry 13). -/
def exec (i : Instr) (s : State) : Host.Outcome State Fault Refusal :=
  match i with
  | .nop => Sys2Proof.Machine.execNop s
  | .crcclr => Sys2Proof.Machine.execCrcclr s
  | .crcbyte b => Sys2Proof.Machine.execCrcbyte b s
  | .crcmsg => Sys2Proof.Machine.execCrcmsg s
  | .build addr reg => Sys2Proof.Machine.execBuild addr reg s
  | .send => Sys2Proof.Machine.execSend s
  | .recv => Sys2Proof.Machine.execRecv s
  | .unstuff => Sys2Proof.Machine.execUnstuff s
  | .decode reg => Sys2Proof.Machine.execDecode reg s
  | .readreg addr reg => Sys2Proof.Machine.execReadreg addr reg s

end Sys2Proof.Machine
end

