-- ==== Sys2Proof/WellFormed.lean ====
section
/-! DEFINITION. What may be assembled (spec 30_encoding.md R86). A term of `Instr` needs no check: its operands are exactly the fields of R81. The bounds on the parameters (00_scope.md R8) are `Params.wf`, in Config.lean. -/

namespace Sys2Proof

/-- R86: "An operand out of range (`b` or `addr` above 0xFF, `reg` above 0xFFFF) is an assembly error, never truncated." -/
def Asm.wf : Asm → Bool
  | .nop => true
  | .crcclr => true
  | .crcbyte b => decide (b ≤ 0xFF)
  | .crcmsg => true
  | .build addr reg => decide (addr ≤ 0xFF) && decide (reg ≤ 0xFFFF)
  | .send => true
  | .recv => true
  | .unstuff => true
  | .decode reg => decide (reg ≤ 0xFFFF)
  | .readreg addr reg => decide (addr ≤ 0xFF) && decide (reg ≤ 0xFFFF)

end Sys2Proof
end

