-- ==== Sys2Proof/Decode.lean ====
section
/-! DEFINITION. The opcode table of spec 30_encoding.md R84 as rows of match and mask, the decoder that reads a command word by it (total, rejecting by name, R85), and the encoder. -/

namespace Sys2Proof

/-- Why a command word is illegal (R85). -/
inductive DecodeError where
  /-- OP is 0xA to 0xF: INFO 1. -/
  | reservedOpcode
  /-- A bit outside the fields of the opcode is 1: INFO 2. -/
  | strayBits
  deriving DecidableEq, Repr

/-- `illegal_info(w)` of R85, as STATUS.INFO shows it (R231). -/
def DecodeError.info : DecodeError → BitVec 4
  | .reservedOpcode => 1
  | .strayBits => 2

/-- The field OP, bits 31:28 (R80). -/
def opField (w : Word) : BitVec 4 := w.extractLsb' 28 4

/-- The operand `addr = w[23:16]` (R81). -/
def addrField (w : Word) : Byte := w.extractLsb' 16 8

/-- The operand `reg = w[15:0]` (R81). -/
def regField (w : Word) : Half := w.extractLsb' 0 16

/-- The operand `b = w[7:0]` (R81). -/
def byteField (w : Word) : Byte := w.extractLsb' 0 8

/-- One row of the table of R84: a word `w` selects it when `w & mask = match`, and its operands are then read by R81. -/
structure Row where
  /-- the column "mnemonic" -/
  mnemonic : String
  /-- the column "match" -/
  mtch : Word
  /-- the column "mask" -/
  mask : Word
  /-- the command with its operands -/
  read : Word → Instr

/-- A word selects a row (R84). -/
def Row.selects (r : Row) (w : Word) : Bool := w &&& r.mask == r.mtch

/-- The opcode table of R84, in its order. -/
def opcodeTable : List Row := [
  ⟨"NOP", 0x00000000#32, 0xFFFFFFFF#32, fun _ => .nop⟩,
  ⟨"CRCCLR", 0x10000000#32, 0xFFFFFFFF#32, fun _ => .crcclr⟩,
  ⟨"CRCBYTE", 0x20000000#32, 0xFFFFFF00#32, fun w => .crcbyte (byteField w)⟩,
  ⟨"CRCMSG", 0x30000000#32, 0xFFFFFFFF#32, fun _ => .crcmsg⟩,
  ⟨"BUILD", 0x40000000#32, 0xFF000000#32, fun w => .build (addrField w) (regField w)⟩,
  ⟨"SEND", 0x50000000#32, 0xFFFFFFFF#32, fun _ => .send⟩,
  ⟨"RECV", 0x60000000#32, 0xFFFFFFFF#32, fun _ => .recv⟩,
  ⟨"UNSTUFF", 0x70000000#32, 0xFFFFFFFF#32, fun _ => .unstuff⟩,
  ⟨"DECODE", 0x80000000#32, 0xFFFF0000#32, fun w => .decode (regField w)⟩,
  ⟨"READREG", 0x90000000#32, 0xFF000000#32, fun w => .readreg (addrField w) (regField w)⟩]

/-- `legal(w)` of R85. -/
def legal (w : Word) : Bool := opcodeTable.any (·.selects w)

/-- The decoder: the row the word selects, or why it is illegal (R84, R85). -/
def decodeWord (w : Word) : Except DecodeError Instr :=
  match opcodeTable.find? (·.selects w) with
  | some r => .ok (r.read w)
  | none => .error (if 0xA#4 ≤ opField w then .reservedOpcode else .strayBits)

/-- The encoder: OP, RSV, A and I side by side, bit 31 first (R80, R83). -/
def encode : Instr → Word
  | .nop => 0x0#4 ++ 0#4 ++ 0#8 ++ 0#16
  | .crcclr => 0x1#4 ++ 0#4 ++ 0#8 ++ 0#16
  | .crcbyte b => 0x2#4 ++ 0#4 ++ 0#8 ++ (0#8 ++ b)
  | .crcmsg => 0x3#4 ++ 0#4 ++ 0#8 ++ 0#16
  | .build addr reg => 0x4#4 ++ 0#4 ++ addr ++ reg
  | .send => 0x5#4 ++ 0#4 ++ 0#8 ++ 0#16
  | .recv => 0x6#4 ++ 0#4 ++ 0#8 ++ 0#16
  | .unstuff => 0x7#4 ++ 0#4 ++ 0#8 ++ 0#16
  | .decode reg => 0x8#4 ++ 0#4 ++ 0#8 ++ reg
  | .readreg addr reg => 0x9#4 ++ 0#4 ++ addr ++ reg

/-- The command word whose table bits are `w` (the table gives every row 32 bits, and a bit above `nbits` is 0). -/
def tableWord (nbits w : Nat) : Word := BitVec.ofNat 32 (w % 2 ^ nbits)

/-- The command the decoder reads from a word numbered as the opcode table numbers it. -/
def decodeTableWord (nbits w : Nat) : Option Instr :=
  match decodeWord (tableWord nbits w) with
  | .ok i => some i
  | .error _ => none

end Sys2Proof
end

