-- ==== Sys2Proof/Machine/Flags.lean ====
section
/-! DEFINITION. The STATUS word and the other composed register words the host reads (spec 10_state.md R26, R47; 20_memory.md R61), and the flag of a malformed escape. -/

namespace Sys2Proof.Machine

/-- A flag as one bit. -/
def bit (b : Bool) : BitVec 1 := BitVec.ofBool b

/-- The value of PHASE in STATUS bits 3:1 (R26, R210). -/
def Phase.code : Phase → BitVec 3
  | .noPhase => 0
  | .build => 1
  | .send => 2
  | .recv => 3
  | .unstuff => 4
  | .decode => 5
  | .crc => 6

/-- The value of ERR in STATUS bits 11:8 (R230). -/
def ErrorKind.code : ErrorKind → BitVec 4
  | .ok => 0
  | .timeout => 1
  | .crcError => 2
  | .malformedHeader => 3
  | .registerMismatch => 4
  | .capacityExceeded => 5
  | .malformedLength => 6
  | .illegalCommand => 7

/-- STATUS as the host reads it, bit 31 first (R26). -/
def Status.word (t : Status) : Word :=
  0#13 ++ bit t.rej ++ bit t.escw ++ bit t.vv ++ t.info ++ t.err.code ++ 0#3 ++ bit t.seq ++
    t.phase.code ++ bit t.busy

/-- EXPSGN: `NLEN << 24 | SE_RAW << 16 | SGN << 8 | EXP` (R61). -/
def Reading.expsgn (r : Reading) : Word := r.nLen ++ r.seRaw ++ 0#7 ++ bit r.sgn ++ r.exp

/-- TXINFO: `TX_IDX << 8 | TX_LEN` (R61). -/
def State.txInfo (s : State) : Word := 0#16 ++ s.txIdx ++ s.txLen

/-- ESCINFO: `ESC_BAD << 8 | ESC_CNT` (R61). -/
def State.escInfo (s : State) : Word := 0#16 ++ s.escBad ++ s.escCnt

/-- CAPS: WIN, MSG_CAP, RAW_CAP, TX_CAP, one byte each, bit 31 first (R47). -/
def capsWord (c : Config) : Word :=
  BitVec.ofNat 8 c.win ++ BitVec.ofNat 8 c.msgCap ++ BitVec.ofNat 8 c.rawCap ++ BitVec.ofNat 8 c.txCap

end Sys2Proof.Machine
end

