-- ==== Sys2Proof/Machine/HostInterface.lean ====
section
/-! DEFINITION. The host register space (spec 20_memory.md): what each offset reads (R61, R65), what a write does (R63, R64), and command accept (45_transaction.md R212). -/

namespace Sys2Proof.Machine

/-- What the host reads from a buffer cell: the byte zero-extended, or a free draw where it has not been written since reset (R37, R61). -/
def State.cellWord (s : State) (a : Nat) : Word :=
  match Memory.read s.mem a with
  | some b => b.setWidth 32
  | none => (Config.freeByte s.draws).setWidth 32

/-- Entry `i` of a window: 0 at or above the buffer's capacity (R61). -/
def State.windowWord (s : State) (c : Config) (b : Buffer) (i : Nat) : Word :=
  if i < b.cap c then s.cellWord (b.base + i) else 0

/-- The offsets 0x10 to 0xFF: REQ, reserved, and the three windows (R61).
DESIGN CHOICE: with WIN below 64 an offset past a window's end reads as an entry of that window, which is 0 (log entry 22). -/
def State.bufferWord (s : State) (c : Config) (n : Nat) : Word :=
  if n < txBase then s.windowWord c .req (n - reqBase)
  else if n < rawBase then s.windowWord c .tx (n - txBase)
  else if n < msgBase then s.windowWord c .raw (n - rawBase)
  else s.windowWord c .msg (n - msgBase)

/-- `HostRead(off)`: the register map (R61). -/
def hostReadWord (c : Config) (off : Byte) (s : State) : Word :=
  match off.toNat with
  | 0x00 => s.cmd
  | 0x01 => s.status.word
  | 0x02 => s.crc.setWidth 32
  | 0x03 => s.result.value
  | 0x04 => s.result.mant
  | 0x05 => s.result.expsgn
  | 0x06 => s.txInfo
  | 0x07 => s.rawLen.setWidth 32
  | 0x08 => s.msgLen.setWidth 32
  | 0x09 => s.escInfo
  | 0x0A => s.startMs
  | 0x0B => s.elapsed
  | 0x0C => capsWord c
  | 0x0D => BitVec.ofNat 32 c.timeoutMs
  | 0x0E => idWord
  | 0x0F => 0
  | n => s.bufferWord c n

/-- DECODE and READREG words, legal or not, clear VV at accept (R212). -/
def clearsVv (w : Word) : Bool := opField w == 0x8#4 || opField w == 0x9#4

/-- Command accept while idle (R212). -/
def acceptCommand (w : Word) (s : State) : State :=
  { s with
    cmd := w
    entry := true
    status :=
      { s.status with
        busy := true
        err := .ok
        info := 0
        rej := false
        phase := .noPhase
        seq := false
        vv := s.status.vv && !clearsVv w } }

/-- A host write is ignored and recorded (R63, R64). -/
def State.reject (s : State) : State := { s with status := { s.status with rej := true } }

/-- The offsets a host write can act on: CMD and the RWi locations (R61).
DESIGN CHOICE: with WIN below 64, which this hardware does not have, the offsets between a window's end and the next window are in no row of R61, and the model takes them as entries of the window before them (log entry 22). -/
def writable (n : Nat) : Bool :=
  n == 0x00 || n == 0x07 || n == 0x08 || decide (rawBase ≤ n)

/-- A length write while idle: refused above the capacity or with a bit above bit 7 (R64). -/
def lengthOk (cap : Nat) (v : Word) : Bool := decide (v.toNat ≤ 0xFF) && decide (v.toNat ≤ cap)

/-- A cell write while idle: no effect at or above the capacity (R64). -/
def State.writeWindow (s : State) (c : Config) (b : Buffer) (i : Nat) (v : Word) : State :=
  if i < b.cap c then s.store b i [v.setWidth 8] else s

/-- A host write to CMD or an RWi location while idle (R62, R64). -/
def idleWrite (c : Config) (n : Nat) (v : Word) (s : State) : State :=
  if n = 0x00 then acceptCommand v s
  else if n = 0x07 then
    if lengthOk c.rawCap v then s.setRawLen (v.setWidth 8) else s.reject
  else if n = 0x08 then
    if lengthOk c.msgCap v then s.setMsgLen (v.setWidth 8) else s.reject
  else if n < msgBase then s.writeWindow c .raw (n - rawBase) v
  else s.writeWindow c .msg (n - msgBase) v

/-- `HostWrite(off, v)` (R61 to R65): no effect on a read-only or reserved offset, refused while a command runs. -/
def hostWrite (c : Config) (off : Byte) (v : Word) (s : State) : State :=
  if writable off.toNat then (if s.status.busy then s.reject else idleWrite c off.toNat v s) else s

end Sys2Proof.Machine
end

