-- ==== Sys2Proof/Machine/Agents.lean ====
section
/-! DEFINITION. The acts of the agents (spec 10_state.md R20): the block's step with its dispatch (45_transaction.md R213), the statements of the program (30_encoding.md R86, R87), the environment's acts and reset (70_reset_and_hazards.md R261). -/

namespace Sys2Proof.Machine

/-- The first step of a command: decode CMD, run the command or raise IllegalCommand (R213, R219). -/
def firstStep (s : State) : StepResult :=
  match decodeWord s.cmd with
  | .ok i => exec i s
  | .error e => .next (s.raise .illegalCommand e.info)

/-- A later step of a multi-step command, with `reg = CMD[15:0]` (R213). -/
def laterStep (s : State) : StepResult := phaseStep hw (regField s.cmd) s

/-- The block's act: it has a step only while BUSY = 1 (R21, R213). -/
def blockStep (s : State) : StepResult :=
  if s.status.busy then (if s.status.phase = .noPhase then firstStep s else laterStep s) else .next s

/-- A host read: the word is the host's to know, and no state of the block changes (R65).
Each read uses up one free draw (R37). -/
def hostRead (off : Byte) (s : State) : State :=
  { s with hostLog := s.hostLog ++ [(off, hostReadWord hw off s)], draws := s.draws + 1 }

/-- One poll of `wait` (R87): where BUSY reads 1 the `wait` stays the program's next statement, so any agent may act before the next poll (R20). -/
def pollBusy (s : State) : State :=
  if s.status.busy then { hostRead 0x01 s with program := .wait :: s.program } else hostRead 0x01 s

/-- The environment changes. -/
def State.withEnv (s : State) (e : Environment) : State := { s with env := e }

/-- The peer appends a byte to its receive queue (R50). -/
def State.deliver (s : State) (b : Byte) : State :=
  s.withEnv { s.env with rxQueue := s.env.rxQueue ++ [b] }

/-- `now_ms()` advances by `d` modulo 2^TIME_W (R22). -/
def State.advance (s : State) (d : Word) : State :=
  s.withEnv { s.env with nowMs := timeBits hw (s.env.nowMs + d) }

/-- One statement of a program, or one poll of a `wait` (R86, R87). -/
def runStmt (st : Stmt) (s : State) : State :=
  match st with
  | .wr off v => hostWrite hw off v s
  | .rd off => hostRead off s
  | .wait => pollBusy s
  | .peer b => s.deliver b
  | .tick n => s.advance n

/-- The program's act: its next statement, nothing where none is left (R227; log entry 14). -/
def programStep (s : State) : State :=
  match s.program with
  | [] => s
  | st :: rest => runStmt st { s with program := rest }

/-- Reset: every register at its reset value, every cell unwritten; the environment and the program keep their state (R260, R261). -/
def resetBlock (s : State) : State :=
  { State.reset with env := s.env, program := s.program, script := s.script, hostLog := s.hostLog, draws := s.draws }

/-- One act of one agent (R20). -/
def act (a : Action) (s : State) : StepResult :=
  match a with
  | .block => blockStep s
  | .program => .next (programStep s)
  | .peerByte b => .next (s.deliver b)
  | .peerDrop i => .next (s.withEnv { s.env with rxQueue := s.env.rxQueue.eraseIdx i })
  | .peerReady r => .next (s.withEnv { s.env with txReady := r })
  | .tick d => .next (s.advance d)
  | .reset => .next (resetBlock s)

/-- The next act: the script's first, or a free one where the script names none (R20; log entry 1). -/
def nextAction (s : State) : Action :=
  match s.script with
  | [] => Config.freeAction s.draws
  | a :: _ => a

/-- The state in which the next act happens: the script moved on, or a free draw used up. -/
def takeAction (s : State) : State :=
  match s.script with
  | [] => { s with draws := s.draws + 1 }
  | _ :: rest => { s with script := rest }

end Sys2Proof.Machine
end

