-- ==== Sys2Proof/Machine/Step.lean ====
section
/-! DEFINITION. One step of the machine is the next act of the total order of spec 20_memory.md R73, and how a command word is placed so that the next step runs it. -/

namespace Sys2Proof.Machine

/-- One step: the next act happens. -/
def step (s : State) : Host.Outcome State Fault Refusal := act (nextAction s) (takeAction s)

/-- `s` with the command word accepted (R212) and the block's act next, so that the next step is the command's first step (log entry 6). -/
def State.withFetchWord (s : State) (nbits w : Nat) : State :=
  { acceptCommand (tableWord nbits w) s with script := .block :: s.script }

end Sys2Proof.Machine
end

