-- ==== Sys2Proof/Machine/Assembler.lean ====
section
/-! DEFINITION. The assembler of spec 30_encoding.md: commands with checked operands (R86), and the statements the pseudo-instructions stand for (R86, R87). -/

namespace Sys2Proof.Machine

/-- A mnemonic and its operands, as R86 writes them; none where the mnemonic or the number of operands is wrong. -/
def asmOf (mnemonic : String) (operands : List Nat) : Option Asm :=
  match mnemonic, operands with
  | "nop", [] => some .nop
  | "crcclr", [] => some .crcclr
  | "crcbyte", [b] => some (.crcbyte b)
  | "crcmsg", [] => some .crcmsg
  | "build", [addr, reg] => some (.build addr reg)
  | "send", [] => some .send
  | "recv", [] => some .recv
  | "unstuff", [] => some .unstuff
  | "decode", [reg] => some (.decode reg)
  | "readreg", [addr, reg] => some (.readreg addr reg)
  | _, _ => none

/-- The command of operands that are in range. -/
def asmInstr : Asm → Instr
  | .nop => .nop
  | .crcclr => .crcclr
  | .crcbyte b => .crcbyte (BitVec.ofNat 8 b)
  | .crcmsg => .crcmsg
  | .build addr reg => .build (BitVec.ofNat 8 addr) (BitVec.ofNat 16 reg)
  | .send => .send
  | .recv => .recv
  | .unstuff => .unstuff
  | .decode reg => .decode (BitVec.ofNat 16 reg)
  | .readreg addr reg => .readreg (BitVec.ofNat 8 addr) (BitVec.ofNat 16 reg)

/-- Assembly: an operand out of range is an assembly error, never truncated (R86). -/
def assemble (a : Asm) : Option Instr := if a.wf then some (asmInstr a) else none

/-- `issue <cmd>` (R87). -/
def issue (i : Instr) : List Stmt := [.wr 0x00 (encode i)]

/-- `exec <cmd>` (R87). -/
def execCmd (i : Instr) : List Stmt := issue i ++ [.wait]

/-- `crc16 b0, ..., bk` (R87); with no operands, `exec crcclr` alone. -/
def crc16Bytes (bytes : List Byte) : List Stmt :=
  execCmd .crcclr ++ bytes.flatMap fun b => execCmd (.crcbyte b)

/-- The cell writes of `ldmsg` and `ldraw`, from an offset on (R87). -/
def cellWrites : Nat → List Byte → List Stmt
  | _, [] => []
  | off, b :: bs => .wr (BitVec.ofNat 8 off) (b.setWidth 32) :: cellWrites (off + 1) bs

/-- `ldmsg b0, ..., bk`; it requires `k+1 <= MSG_CAP` (R87).
That BUSY is 0 is for the program to see to: a write while a command runs is refused and sets REJ (R63). -/
def ldmsg (c : Config) (bytes : List Byte) : Option (List Stmt) :=
  if bytes.length ≤ c.msgCap then
    some (cellWrites 0xC0 bytes ++ [.wr 0x08 (BitVec.ofNat 32 bytes.length)])
  else none

/-- `ldraw b0, ..., bk`; it requires `k+1 <= RAW_CAP` (R87). -/
def ldraw (c : Config) (bytes : List Byte) : Option (List Stmt) :=
  if bytes.length ≤ c.rawCap then
    some (cellWrites 0x80 bytes ++ [.wr 0x07 (BitVec.ofNat 32 bytes.length)])
  else none

/-- `peer b0, b1, ...` (R86). -/
def peer (bytes : List Byte) : List Stmt := bytes.map .peer

end Sys2Proof.Machine
end

