-- ==== Sys2Proof/Safety.lean ====
section
/-! DEFINITION. What the claims speak of: the invariants of a run (spec 10_state.md R52 and the rules cited), which runs there are, and what a binary32 pattern stands for. -/

namespace Sys2Proof.Machine

/-- Every cell below `n` of a buffer has been written since reset (R37). -/
abbrev State.written (s : State) (b : Buffer) (n : Nat) : Prop := ∀ i < n, (s.cell hw b i).isSome = true

/-- The cells from `i` on hold these bytes. -/
abbrev State.holds (s : State) (b : Buffer) (i : Nat) (bytes : List Byte) : Prop :=
  s.cells hw b i bytes.length = bytes.map some

/-- Every cell of memory outside the addresses `a` to `a + n - 1` reads as before. -/
def sameOutside (s t : State) (a n : Nat) : Prop :=
  ∀ x : Nat, ¬(a ≤ x ∧ x < a + n) → Memory.read t.mem x = Memory.read s.mem x

/-- The bounds of the registers and the form of the byte storage (R29, R32 to R35, R39, R44, R52). -/
structure State.DataInv (s : State) : Prop where
  memWf : Memory.wf s.mem = true
  memMapped : ∀ x ∈ s.mem, ∃ b : Buffer, ∃ i : Nat, i < b.cap hw ∧ x.1 = b.base + i
  txLen : s.txLen.toNat ≤ hw.txCap
  txIdx : s.txIdx.toNat ≤ s.txLen.toNat
  rawLen : s.rawLen.toNat ≤ hw.rawCap
  msgLen : s.msgLen.toNat ≤ hw.msgCap
  expRange : -63 ≤ s.result.exp.toInt ∧ s.result.exp.toInt ≤ 63
  escCnt : s.escCnt.toNat ≤ 32
  frameWritten : s.written .tx s.txLen.toNat

/-- Which error record goes with which phase (R231, R235). -/
def errorRecord (e : ErrorKind) (info : BitVec 4) (p : Phase) : Bool :=
  match e with
  | .ok => info == 0
  | .timeout => info == 0 && p == .recv
  | .crcError => info == 0 && p == .unstuff
  | .malformedHeader => info == 0 && p == .decode
  | .registerMismatch => info == 0 && p == .decode
  | .capacityExceeded => (info == 1 && p == .build) || (info == 2 && p == .recv) || (info == 3 && p == .unstuff)
  | .malformedLength => (info == 1 || info == 2 || info == 3 || info == 4) && p == .decode
  | .illegalCommand => (info == 1 || info == 2) && p == .noPhase

/-- A later step is one of READREG's phases 2 to 5, or of a SEND or RECV command (R210, R213, R214). -/
def State.laterPhase (s : State) : Prop :=
  (s.status.seq = true ∧ (∃ addr reg, decodeWord s.cmd = .ok (.readreg addr reg)) ∧
    (s.status.phase = .send ∨ s.status.phase = .recv ∨ s.status.phase = .unstuff ∨ s.status.phase = .decode)) ∨
  (s.status.seq = false ∧ decodeWord s.cmd = .ok .send ∧ s.status.phase = .send) ∨
  (s.status.seq = false ∧ decodeWord s.cmd = .ok .recv ∧ s.status.phase = .recv)

/-- The sequencer: what BUSY, PHASE, SEQ, ENTRY, ERR and VV say together (R26, R27, R52, R213, R214, R235), and that READREG's phases read only cells that have been written. -/
structure State.SequencerInv (s : State) : Prop where
  idle : s.status.busy = false → s.entry = false ∧ s.status.seq = false
  fresh : s.status.busy = true → s.status.phase = .noPhase → s.entry = true ∧ s.status.seq = false
  later : s.status.busy = true → s.status.phase ≠ .noPhase → s.laterPhase
  clean : s.status.busy = true → s.status.err = .ok
  record : errorRecord s.status.err s.status.info s.status.phase = true
  sendIndex : s.status.busy = true → s.status.phase = .send → s.entry = false → s.txIdx.toNat < s.txLen.toNat
  rawWritten : s.status.busy = true → s.status.phase = .recv → s.entry = false → s.written .raw s.rawLen.toNat
  rawReady : s.status.busy = true → s.status.phase = .unstuff → s.written .raw s.rawLen.toNat
  msgReady : s.status.busy = true → s.status.phase = .decode → s.written .msg s.msgLen.toNat
  vvBusy : s.status.busy = true → clearsVv s.cmd = true → s.status.vv = false
  vvIdle : s.status.busy = false → clearsVv s.cmd = true → (s.status.vv = true ↔ s.status.err = .ok)

/-- A run: from the reset registers with any environment, any program and any script, step by step (R20, R261). -/
inductive Reachable : State → Prop where
  | powerOn (e : Environment) (prog : List Stmt) (acts : List Action) (n : Nat) :
      Reachable { State.reset with env := e, program := prog, script := acts, draws := n }
  | next (s t : State) : Reachable s → step s = .next t → Reachable t

/-- The rational a finite pattern stands for, its sign apart (R187, R189): `m * 2^(k - 149)`. -/
def patternValue (p : Word) : ℚ :=
  match magnitude p with
  | .nan => 0
  | .inf => 0
  | .fin m k => (m : ℚ) * 2 ^ k / 2 ^ 149

/-- The rational a finite pattern stands for, with its sign. -/
def signedValue (p : Word) : ℚ := if p.getLsbD 31 then -patternValue p else patternValue p

/-- The sequencing fields that tell READREG's phase from the single command (R220). -/
def State.withoutSequencing (s : State) : State :=
  { s with
    entry := false
    cmd := 0
    status := { s.status with busy := false, seq := false, phase := .noPhase } }

/-- STATUS after a command ends with success in phase `p` (R16). -/
def Status.ended (t : Status) (p : Phase) : Status :=
  { t with busy := false, phase := p, seq := false, err := .ok, info := 0 }

/-- STATUS after a command ends with an error in phase `p` (R15). -/
def Status.failed (t : Status) (p : Phase) (e : ErrorKind) (info : BitVec 4) : Status :=
  { t with busy := false, phase := p, seq := false, err := e, info := info }

/-- The state with one more statement, which is the program's next. -/
def State.beforeStmt (s : State) (st : Stmt) : State := { s with program := st :: s.program }

/-- `n` block steps with no other agent's act between them; none where one of them is not a next state. -/
def runBlock : Nat → State → Option State
  | 0, s => some s
  | n + 1, s =>
    match blockStep s with
    | .next t => runBlock n t
    | .fault _ => none
    | .refused _ => none

/-- The bytes, first byte most significant, as one number (R66). -/
def bigEndian (bytes : List Byte) : Nat := bytes.foldl (fun x b => 256 * x + b.toNat) 0

/-- The exponent of a sign/exponent byte read from R185's numbers: low 6 bits, negated if bit 6 is set. -/
def exponentOf (se : Byte) : Int := if se.getLsbD 6 then -((se.toNat % 64 : Nat) : Int) else ((se.toNat % 64 : Nat) : Int)

/-- The reading a message encodes (R184 to R186, R192): `msg` holds at least 7 + msg[5] bytes. -/
def readingOf (msg : List Byte) : Reading :=
  let n := msg.getD 5 0
  let se := msg.getD 6 0
  let x : Word := BitVec.ofNat 32 (bigEndian ((msg.drop 7).take n.toNat))
  { mant := x
    exp := BitVec.ofInt 8 (exponentOf se)
    sgn := se.getLsbD 7
    seRaw := se
    nLen := n
    value := value32 x.toInt (exponentOf se) (se.getLsbD 7) }

/-- What the unstuff pass reads as one unit (R161): a byte copied unchanged, or an escape marker with its partner. -/
inductive RawItem where
  | plain (b : Byte)
  | pair (y : Byte)
  deriving DecidableEq, Repr

/-- A copied byte is not the escape marker. -/
def RawItem.wf : RawItem → Bool
  | .plain b => b != 0x1b
  | .pair _ => true

/-- The raw bytes of a unit. -/
def RawItem.wire : RawItem → List Byte
  | .plain b => [b]
  | .pair y => [0x1b, y]

/-- The message byte of a unit (R161). -/
def RawItem.byte : RawItem → Byte
  | .plain b => b
  | .pair y => y ^^^ 0xff

/-- The malformed value of a unit, if it is one (R165). -/
def RawItem.bad : RawItem → List Byte
  | .plain _ => []
  | .pair y => if (y ^^^ 0xff) ∈ [0x06#8, 0x0d, 0x1b, 0x40, 0x80] then [] else [y ^^^ 0xff]

/-- The units of a raw buffer whose last byte is `x`: where the last marker dangles, `x` is its partner (R162). -/
def rawUnits (items : List RawItem) (dangling : Bool) (x : Byte) : List RawItem :=
  items ++ if dangling then [.pair x] else []

/-- A raw buffer: the units, a dangling marker or none, and the last byte `x`. -/
def rawBytes (items : List RawItem) (dangling : Bool) (x : Byte) : List Byte :=
  items.flatMap RawItem.wire ++ (if dangling then [0x1b] else []) ++ [x]

/-- The bits of a byte as a polynomial over GF(2), bit `k` at `x^k` (R103). -/
noncomputable def bytePoly (b : Byte) : Polynomial (ZMod 2) :=
  ∑ k ∈ Finset.range 8, if b.getLsbD k then Polynomial.X ^ k else 0

/-- A byte sequence as a polynomial over GF(2), the first byte highest (R103). -/
noncomputable def messagePoly (bytes : List Byte) : Polynomial (ZMod 2) :=
  bytes.foldl (fun p b => p * Polynomial.X ^ 8 + bytePoly b) 0

/-- A CRC value as a polynomial, bit `j` at `x^j` (R103). -/
noncomputable def crcPoly (r : Half) : Polynomial (ZMod 2) :=
  ∑ j ∈ Finset.range 16, if r.getLsbD j then Polynomial.X ^ j else 0

/-- `P(x) = x^16 + x^12 + x^5 + 1` (R103). -/
noncomputable def generatorPoly : Polynomial (ZMod 2) :=
  Polynomial.X ^ 16 + Polynomial.X ^ 12 + Polynomial.X ^ 5 + 1

/-- The two results are the same but for the sequencing fields, and phase `p` ends in both or in neither (R220). -/
def samePhaseResult (p : Phase) : StepResult → StepResult → Prop
  | .next a, .next b =>
    a.withoutSequencing = b.withoutSequencing ∧
      ((a.status.busy = false ∨ a.status.phase ≠ p) ↔ b.status.busy = false)
  | .fault f, .fault g => f = g
  | _, _ => False

end Sys2Proof.Machine
end

