-- ==== Sys2Proof/Certificates/Slice0/Obligations.lean ====
section
/-! DEFINITION. The statements for the provers, from the numbered rules of spec/. -/

open Sys2Proof Sys2Proof.Machine

/-! ## Encoding -/

/-- R81, R83, R84: a word decodes to a command exactly when it is the command's encoding, so no bit of a command is dropped and no two words mean the same command. -/
def Obligations.DecodeInvertsEncode : Prop :=
  ∀ (w : Word) (i : Instr), decodeWord w = .ok i ↔ encode i = w

/-- R84: one word of every row, from the encoding strings, and its command. -/
def Obligations.WordsOfTheTableDecode : Prop :=
  decodeWord 0x00000000 = .ok .nop ∧ decodeWord 0x10000000 = .ok .crcclr ∧
  decodeWord 0x200000A5 = .ok (.crcbyte 0xA5) ∧ decodeWord 0x30000000 = .ok .crcmsg ∧
  decodeWord 0x403F013C = .ok (.build 0x3F 0x013C) ∧ decodeWord 0x50000000 = .ok .send ∧
  decodeWord 0x60000000 = .ok .recv ∧ decodeWord 0x70000000 = .ok .unstuff ∧
  decodeWord 0x8000013C = .ok (.decode 0x013C) ∧ decodeWord 0x903F013C = .ok (.readreg 0x3F 0x013C)

/-- R84, R85: no two rows match the same word, and the words that no row matches are refused with the INFO of `illegal_info`. -/
def Obligations.TheTableDecidesEveryWord : Prop :=
  (∀ (w : Word) (i j : Nat) (r q : Row), opcodeTable[i]? = some r → opcodeTable[j]? = some q →
    w &&& r.mask = r.mtch → w &&& q.mask = q.mtch → i = j) ∧
  ∀ w : Word,
    (decodeWord w = .error .reservedOpcode ↔ 0xA#4 ≤ w.extractLsb' 28 4) ∧
    (decodeWord w = .error .strayBits ↔
      w.extractLsb' 28 4 < 0xA#4 ∧ ∀ r ∈ opcodeTable, w &&& r.mask ≠ r.mtch)

/-- R86: an operand out of range does not assemble and no operand is truncated. -/
def Obligations.AssemblyTruncatesNoOperand : Prop :=
  (∀ (n : Nat) (b : Byte), assemble (.crcbyte n) = some (.crcbyte b) ↔ n = b.toNat) ∧
  (∀ (n : Nat) (r : Half), assemble (.decode n) = some (.decode r) ↔ n = r.toNat) ∧
  (∀ (n m : Nat) (a : Byte) (r : Half), assemble (.build n m) = some (.build a r) ↔ n = a.toNat ∧ m = r.toNat) ∧
  (∀ (n m : Nat) (a : Byte) (r : Half), assemble (.readreg n m) = some (.readreg a r) ↔ n = a.toNat ∧ m = r.toNat) ∧
  (∀ n : Nat, 0xFF < n → assemble (.crcbyte n) = none) ∧
  (∀ n : Nat, 0xFFFF < n → assemble (.decode n) = none) ∧
  (∀ n m : Nat, 0xFF < n ∨ 0xFFFF < m → assemble (.build n m) = none ∧ assemble (.readreg n m) = none)

/-! ## The step -/

/-- R213: when the block's act is next and the command word in CMD decodes to `i`, the step is `exec i`, after the act is taken from the schedule. -/
def Obligations.StepRunsTheCommandInCmd : Prop :=
  ∀ (s : State) (i : Instr), nextAction s = .block → s.status.busy = true → s.status.phase = .noPhase →
    decodeWord s.cmd = .ok i → step s = exec i (takeAction s)

/-- R213, R210: a later block step runs the same command, whose word still stands in CMD. -/
def Obligations.LaterStepsRunTheSameCommand : Prop :=
  ∀ (s : State) (i : Instr), s.SequencerInv → s.status.busy = true → s.status.phase ≠ .noPhase →
    decodeWord s.cmd = .ok i → blockStep s = exec i s

/-- R62, R212, R213: an idle block accepts the word the program writes to offset 0x00, and the next block step runs the command. -/
def Obligations.WritingACommandRunsIt : Prop :=
  ∀ (s : State) (i : Instr) (prog : List Stmt) (rest : List Action), s.status.busy = false →
    s.program = issue i ++ prog → s.script = .program :: .block :: rest →
    ∃ t, step s = .next t ∧ step t = exec i { acceptCommand (encode i) s with program := prog, script := rest }

/-- R212: command accept, refused while busy. -/
def Obligations.CommandAccept : Prop :=
  ∀ (s : State) (w : Word),
    (s.status.busy = true →
      act .program (s.beforeStmt (.wr 0x00 w)) = .next { s with status := { s.status with rej := true } }) ∧
    (s.status.busy = false →
      act .program (s.beforeStmt (.wr 0x00 w)) =
        .next { s with
          cmd := w
          entry := true
          status :=
            { busy := true, phase := .noPhase, seq := false, err := .ok, info := 0,
              vv := if w.extractLsb' 28 4 = 0x8#4 ∨ w.extractLsb' 28 4 = 0x9#4 then false else s.status.vv,
              escw := s.status.escw, rej := false } })

/-- R219, R85: the first block step of an illegal word records the error and changes nothing else; CMD keeps the word, and VV was cleared at accept for opcodes 8 and 9. -/
def Obligations.IllegalCommandChangesOnlyTheOutcome : Prop :=
  ∀ (s : State) (w : Word), s.status.busy = false → (∀ r ∈ opcodeTable, w &&& r.mask ≠ r.mtch) →
    ∃ t, act .program (s.beforeStmt (.wr 0x00 w)) = .next t ∧
      act .block t =
        .next { s with
          cmd := w
          entry := false
          status :=
            { busy := false, phase := .noPhase, seq := false, err := .illegalCommand,
              info := if 0xA#4 ≤ w.extractLsb' 28 4 then 1 else 2,
              vv := if w.extractLsb' 28 4 = 0x8#4 ∨ w.extractLsb' 28 4 = 0x9#4 then false else s.status.vv,
              escw := s.status.escw, rej := false } }

/-! ## The CRC unit -/

/-- R101, R102: one bit step, in the numbers of the rule; a byte step is eight bit steps, bit 7 first; `crc16` goes on where it stopped. -/
def Obligations.CrcStepsAreTheRules : Prop :=
  (∀ (r : Half) (d : Bool),
    (crcBit r d).toNat =
      if (2 * r.toNat + d.toNat).testBit 16 then ((2 * r.toNat + d.toNat) % 0x10000) ^^^ 0x1021
      else 2 * r.toNat + d.toNat) ∧
  (∀ (r : Half) (b : Byte),
    crcByte r b =
      crcBit (crcBit (crcBit (crcBit (crcBit (crcBit (crcBit (crcBit r (b.getLsbD 7)) (b.getLsbD 6)) (b.getLsbD 5))
        (b.getLsbD 4)) (b.getLsbD 3)) (b.getLsbD 2)) (b.getLsbD 1)) (b.getLsbD 0)) ∧
  (∀ m : List Byte, crc16 m = m.foldl crcByte 0) ∧
  (∀ m n : List Byte, crc16 (m ++ n) = n.foldl crcByte (crc16 m))

/-- R103: `crc16(s)` is the remainder of `s(x)` by `P(x)` over GF(2): it has degree below 16 and differs from `s(x)` by a multiple of `P(x)`. -/
def Obligations.CrcIsThePolynomialRemainder : Prop :=
  ∀ m : List Byte, generatorPoly ∣ messagePoly m - crcPoly (crc16 m)

/-- R103: `crc16` is linear over XOR for sequences of equal length, and zero bytes in front do not change it. -/
def Obligations.CrcIsLinear : Prop :=
  (∀ m n : List Byte, m.length = n.length →
    crc16 (List.zipWith (fun a b : Byte => a ^^^ b) m n) = crc16 m ^^^ crc16 n) ∧
  (∀ (k : Nat) (m : List Byte), crc16 (List.replicate k 0 ++ m) = crc16 m)

/-- R104: the systematic property. -/
def Obligations.CrcAppendedMakesCrcZero : Prop :=
  ∀ m : List Byte,
    crc16 (m ++ [(crc16 (m ++ [0x00, 0x00])).extractLsb' 8 8, (crc16 (m ++ [0x00, 0x00])).extractLsb' 0 8]) = 0

/-- R106: the corner values. -/
def Obligations.CrcOfShortAndZeroMessages : Prop :=
  crc16 [] = 0 ∧ crc16 [0x00] = 0 ∧ (∀ b : Byte, crc16 [b] = b.setWidth 16) ∧
  (∀ b : Byte, crc16 [0x00, b] = b.setWidth 16) ∧ (∀ a b : Byte, crc16 [a, b] = a ++ b) ∧
  (∀ n : Nat, crc16 (List.replicate n 0x00) = 0)

/-- R215, R107, R108: NOP completes in its block step and writes no other state (PHASE stays as accept left it); CRCCLR clears CRC; CRCBYTE absorbs its operand, bit 7 first. -/
def Obligations.NopCrcclrCrcbyteResults : Prop :=
  ∀ (s : State) (b : Byte),
    exec .nop s = .next { s with entry := false, status := s.status.ended s.status.phase } ∧
    exec .crcclr s = .next { s with crc := 0, entry := false, status := s.status.ended .crc } ∧
    exec (.crcbyte b) s =
      .next { s with
        crc := [7, 6, 5, 4, 3, 2, 1, 0].foldl (fun r k => crcBit r (b.getLsbD k)) s.crc
        entry := false
        status := s.status.ended .crc }

/-- R109: CRCMSG on a message whose cells have been written; it raises no CrcError whatever the result. -/
def Obligations.CrcmsgResult : Prop :=
  ∀ (s : State) (msg : List Byte), msg.length = s.msgLen.toNat → s.holds .msg 0 msg →
    exec .crcmsg s = .next { s with crc := crc16 msg, entry := false, status := s.status.ended .crc }

/-! ## The stuffer, the request builder and the transmit streamer -/

/-- R121: the frame of a message and its length. -/
def Obligations.FrameShapeAndLength : Prop :=
  ∀ m : List Byte,
    frame m = [0x80] ++ (m.map stuff).flatten ++ [0x0d] ∧
    (frame m).length = 2 + m.length + m.countP (fun b => b ∈ [0x06#8, 0x0d, 0x1b, 0x40, 0x80])

/-- R120, R122: `stuff(b)`, the five escape pairs, and where the reserved bytes stand in a frame. -/
def Obligations.ReservedBytesOnlyDelimit : Prop :=
  (∀ b : Byte, stuff b = if b ∈ [0x06#8, 0x0d, 0x1b, 0x40, 0x80] then [0x1b, b ^^^ 0xff] else [b]) ∧
  (stuff 0x06 = [0x1b, 0xf9] ∧ stuff 0x0d = [0x1b, 0xf2] ∧ stuff 0x1b = [0x1b, 0xe4] ∧
    stuff 0x40 = [0x1b, 0xbf] ∧ stuff 0x80 = [0x1b, 0x7f]) ∧
  (∀ b y : Byte, stuff b = [0x1b, y] → y ∉ [0x06#8, 0x0d, 0x1b, 0x40, 0x80]) ∧
  ∀ m : List Byte,
    (∀ k, (frame m)[k]? = some (0x80 : Byte) ↔ k = 0) ∧
    (∀ k, (frame m)[k]? = some (0x0d : Byte) ↔ k + 1 = (frame m).length) ∧
    0x40 ∉ frame m ∧ 0x06 ∉ frame m ∧
    (∀ k, (frame m)[k]? = some (0x1b : Byte) →
      ∃ p b q, m = p ++ b :: q ∧ (stuff b).length = 2 ∧ k = 1 + (p.map stuff).flatten.length)

/-- R123: the request message, its CRC, and that its own CRC is 0. -/
def Obligations.RequestCarriesItsCrc : Prop :=
  ∀ (addr : Byte) (reg : Half),
    let c := crc16 [addr, 0x10, 0x01, reg.extractLsb' 8 8, reg.extractLsb' 0 8, 0x00, 0x00]
    requestCrc addr reg = c ∧
    request addr reg =
      [addr, 0x10, 0x01, reg.extractLsb' 8 8, reg.extractLsb' 0 8, c.extractLsb' 8 8, c.extractLsb' 0 8] ∧
    crc16 (request addr reg) = 0

/-- R124: a request frame has 9 to 13 bytes, and 13 occurs. -/
def Obligations.RequestFrameHas9To13Bytes : Prop :=
  (∀ (addr : Byte) (reg : Half), 9 ≤ (frame (request addr reg)).length ∧ (frame (request addr reg)).length ≤ 13) ∧
  (frame (request 0x06 0x0d80)).length = 13

/-- R125: BUILD writes REQ, CRC, TXBUF and TX_LEN and ends by `phase_done()`; every other cell and register stays, TX_IDX too unless TX_LEN falls below it (R29, R52; the model's choice there, and its free draw: log entry 7). -/
def Obligations.BuildResult : Prop :=
  ∀ (s : State) (addr : Byte) (reg : Half),
    ∃ t : State,
      exec (.build addr reg) s = .next t.phaseDone ∧
      t = { s with
        mem := t.mem
        crc := requestCrc addr reg
        txLen := BitVec.ofNat 8 (frame (request addr reg)).length
        txIdx := t.txIdx
        draws := s.draws + 1
        status := { s.status with phase := .build } } ∧
      t.txIdx.toNat ≤ t.txLen.toNat ∧ (s.txIdx.toNat ≤ t.txLen.toNat → t.txIdx = s.txIdx) ∧
      t.holds .req 0 (request addr reg) ∧ t.holds .tx 0 (frame (request addr reg)) ∧
      ∀ x : Nat, ¬(0x10 ≤ x ∧ x < 0x17) → ¬(0x40 ≤ x ∧ x < 0x40 + (frame (request addr reg)).length) →
        Memory.read t.mem x = Memory.read s.mem x

/-- R125, R233: at any parameters, a frame longer than TX_CAP is a recorded error; REQ and CRC are written, no TXBUF cell is.
That TX_IDX is then 0 is the model's choice, not R125's or R233's: R29 and R52 bound it by TX_LEN, which is 0 (log entry 7). -/
def Obligations.BuildBeyondTheCapacity : Prop :=
  ∀ (c : Config) (s : State) (addr : Byte) (reg : Half), c.txCap < (frame (request addr reg)).length →
    ∃ m : Memory,
      buildPhase c addr reg s =
        { s with
          mem := m
          crc := requestCrc addr reg
          txLen := 0
          txIdx := 0
          entry := false
          status := s.status.failed .build .capacityExceeded 1 } ∧
      (buildPhase c addr reg s).holds .req 0 (request addr reg) ∧
      ∀ x : Nat, ¬(0x10 ≤ x ∧ x < 0x17) → Memory.read m x = Memory.read s.mem x

/-- R127, R128: one SEND step: nothing left, the peer does not accept, a byte leaves, the last byte leaves. -/
def Obligations.SendStepResult : Prop :=
  ∀ s : State,
    let i : Byte := if s.entry then 0 else s.txIdx
    let at_ (j : Byte) : State := { s with txIdx := j, entry := false, status := { s.status with phase := .send } }
    (i = s.txLen → exec .send s = .next (at_ i).phaseDone) ∧
    (i ≠ s.txLen → s.env.txReady = false → exec .send s = .next (at_ i)) ∧
    (∀ b : Byte, i ≠ s.txLen → s.env.txReady = true → s.holds .tx i.toNat [b] →
      let t := { at_ (i + 1) with env := { s.env with wire := s.env.wire ++ [b] } }
      exec .send s = .next (if i + 1 = s.txLen then t.phaseDone else t))

/-- R127: a SEND whose peer accepts every byte puts exactly TXBUF[0], ..., TXBUF[TX_LEN-1] on the wire, one byte a step, and ends. -/
def Obligations.SendSendsTheWholeFrame : Prop :=
  ∀ (s : State) (bytes : List Byte), s.status.busy = true → s.status.phase = .noPhase → s.status.seq = false →
    decodeWord s.cmd = .ok .send → s.entry = true → s.env.txReady = true →
    bytes ≠ [] → bytes.length = s.txLen.toNat → s.holds .tx 0 bytes →
    runBlock bytes.length s =
      some { s with
        txIdx := s.txLen
        entry := false
        env := { s.env with wire := s.env.wire ++ bytes }
        status := s.status.ended .send }

/-- R249: a SEND phase whose peer never accepts a byte never ends and changes nothing. -/
def Obligations.SendWaitsForThePeer : Prop :=
  ∀ (n : Nat) (s : State), s.status.busy = true → s.status.phase = .send → s.entry = false →
    s.txIdx ≠ s.txLen → s.env.txReady = false → runBlock n s = some s

/-! ## The receive state machine -/

/-- R141: the RX_INIT step. -/
def Obligations.RxInitResult : Prop :=
  ∀ s : State, s.entry = true →
    exec .recv s =
      .next { s with
        env := { s.env with rxQueue := [] }
        startMs := s.env.nowMs
        elapsed := 0
        rawLen := 0
        entry := false
        status := { s.status with phase := .recv } }

/-- R142, R143, R147, R151's wrap: the timeout is tested first, from 201 ms on, across a wrap of the clock; with at most 200 ms a waiting byte is read, and with none waiting only ELAPSED changes.
Where the clock has stepped back by no more than the time already elapsed, R151 would have a timeout; following R142 and R147 there is the model's reading (log entry 23). -/
def Obligations.TimeoutComesBeforeTheByte : Prop :=
  ∀ s : State, s.entry = false →
    (201 ≤ (s.env.nowMs - s.startMs).toNat →
      exec .recv s =
        .next { s with
          elapsed := s.env.nowMs - s.startMs
          rawLen := 0
          status := s.status.failed .recv .timeout 0 }) ∧
    ((s.env.nowMs - s.startMs).toNat ≤ 200 →
      (∀ (b : Byte) (rest : List Byte), s.env.rxQueue = b :: rest →
        ∃ t, exec .recv s = .next t ∧ t.env.rxQueue = rest) ∧
      (s.env.rxQueue = [] →
        exec .recv s =
          .next { s with elapsed := s.env.nowMs - s.startMs, status := { s.status with phase := .recv } }))

/-- R144: a popped 0x40 is dropped whatever stands in RAW: only the queue and ELAPSED change. -/
def Obligations.StartMarkerIsDropped : Prop :=
  ∀ (s : State) (rest : List Byte), s.entry = false → (s.env.nowMs - s.startMs).toNat ≤ 200 →
    s.env.rxQueue = 0x40 :: rest →
    exec .recv s =
      .next { s with
        env := { s.env with rxQueue := rest }
        elapsed := s.env.nowMs - s.startMs
        status := { s.status with phase := .recv } }

/-- R142, R145, R146: any other popped byte is appended at RAW[RAW_LEN], a 0x0d ends the phase, and a full buffer is a recorded error whatever the byte is. -/
def Obligations.ReceivedByteIsAppended : Prop :=
  ∀ (s : State) (b : Byte) (rest : List Byte), s.entry = false → (s.env.nowMs - s.startMs).toNat ≤ 200 →
    s.env.rxQueue = b :: rest → b ≠ 0x40 →
    (s.rawLen.toNat = 50 →
      exec .recv s =
        .next { s with
          env := { s.env with rxQueue := rest }
          elapsed := s.env.nowMs - s.startMs
          rawLen := 0
          status := s.status.failed .recv .capacityExceeded 2 }) ∧
    (s.rawLen.toNat < 50 →
      ∃ t : State,
        t = { s with
          mem := t.mem
          env := { s.env with rxQueue := rest }
          elapsed := s.env.nowMs - s.startMs
          rawLen := s.rawLen + 1
          status := { s.status with phase := .recv } } ∧
        t.holds .raw s.rawLen.toNat [b] ∧ sameOutside s t (0x80 + s.rawLen.toNat) 1 ∧
        exec .recv s = .next (if b = 0x0d then t.phaseDone else t))

/-- R144, R145, R150: from a queue that holds a stream up to its first 0x0d, RX_WAIT keeps exactly the stream without its 0x40 bytes, one byte a step, and ends on the 0x0d; what follows stays queued. -/
def Obligations.ReceiveFiltersAndStops : Prop :=
  ∀ (s : State) (stream rest : List Byte), s.status.busy = true → s.status.phase = .recv → s.entry = false →
    s.status.seq = false → s.rawLen = 0 → (s.env.nowMs - s.startMs).toNat ≤ 200 →
    0x0d ∉ stream → s.env.rxQueue = stream ++ 0x0d :: rest →
    (stream.filter (fun b => b ≠ 0x40)).length < 50 →
    ∃ t : State,
      runBlock (stream.length + 1) s = some t ∧
      t = { s with
        mem := t.mem
        rawLen := BitVec.ofNat 8 ((stream.filter (fun b => b ≠ 0x40)).length + 1)
        env := { s.env with rxQueue := rest }
        elapsed := s.env.nowMs - s.startMs
        status := s.status.ended .recv } ∧
      t.holds .raw 0 (stream.filter (fun b => b ≠ 0x40) ++ [0x0d]) ∧
      sameOutside s t 0x80 ((stream.filter (fun b => b ≠ 0x40)).length + 1)

/-! ## The unstuffer -/

/-- R169: the escape round trip, whatever the excluded last byte is (R160). -/
def Obligations.UnstuffInvertsStuff : Prop :=
  ∀ (cap : Nat) (m : List Byte) (x : Byte), m.length ≤ cap →
    unstuffPass cap 0 (((m.map stuff).flatten ++ [x]).map some) .start =
      .done { msg := m, escw := false, cnt := 0, bad := 0 }

/-- R160 to R163, R165, R166, R167: UNSTUFF on any raw buffer that has been written, read as plain bytes, escape pairs and perhaps a dangling marker, with a message that fits. -/
def Obligations.UnstuffResult : Prop :=
  ∀ (s : State) (items : List RawItem) (dangling : Bool) (x : Byte),
    (∀ u ∈ items, u.wf = true) →
    (rawBytes items dangling x).length = s.rawLen.toNat → s.holds .raw 0 (rawBytes items dangling x) →
    (rawUnits items dangling x).length ≤ 40 →
    let msg := (rawUnits items dangling x).map RawItem.byte
    let bad := (rawUnits items dangling x).flatMap RawItem.bad
    ∃ t : State,
      t = { s with
        mem := t.mem
        crc := crc16 msg
        msgLen := if crc16 msg = 0 then BitVec.ofNat 8 msg.length else 0
        escCnt := BitVec.ofNat 8 bad.length
        escBad := bad.getLastD 0
        status := { s.status with phase := .unstuff, escw := !bad.isEmpty } } ∧
      t.holds .msg 0 msg ∧ sameOutside s t 0xC0 msg.length ∧
      exec .unstuff s =
        .next (if crc16 msg = 0 then t.phaseDone
          else { t with entry := false, status := t.status.failed .unstuff .crcError 0 })

/-- R164, R233, R239: a message above the capacity is a recorded error before any CRC check; the first 40 message bytes stay in MSG and CRC is not computed. -/
def Obligations.UnstuffBeyondTheCapacity : Prop :=
  ∀ (s : State) (items : List RawItem) (dangling : Bool) (x : Byte),
    (∀ u ∈ items, u.wf = true) →
    (rawBytes items dangling x).length = s.rawLen.toNat → s.holds .raw 0 (rawBytes items dangling x) →
    40 < (rawUnits items dangling x).length →
    ∃ t : State,
      exec .unstuff s = .next t ∧
      t = { s with
        mem := t.mem
        msgLen := 0
        escCnt := t.escCnt
        escBad := t.escBad
        entry := false
        status := { s.status.failed .unstuff .capacityExceeded 3 with escw := t.status.escw } } ∧
      t.holds .msg 0 (((rawUnits items dangling x).map RawItem.byte).take 40) ∧ sameOutside s t 0xC0 40

/-- R168, R44: UNSTUFF of an empty raw buffer gives the empty message and success; wherever the raw cells below RAW_LEN have been written it ends in one step, and ESC_CNT stays at or below 32. -/
def Obligations.UnstuffCompletesOnWrittenCells : Prop :=
  ∀ s : State,
    (s.rawLen = 0 →
      exec .unstuff s =
        .next ({ s with
          crc := 0, msgLen := 0, escCnt := 0, escBad := 0
          status := { s.status with phase := .unstuff, escw := false } } : State).phaseDone) ∧
    (s.status.seq = false → s.written .raw s.rawLen.toNat →
      ∃ t, exec .unstuff s = .next t ∧ t.status.busy = false ∧ t.escCnt.toNat ≤ 32 ∧ t.rawLen = s.rawLen ∧
        (t.status.err = .ok ∨ t.status.err = .crcError ∨ t.status.err = .capacityExceeded))

/-! ## The value decoder -/

/-- R181 to R185, R192, R43, R239: the checks in their order with the result unchanged at an error, and the reading where all pass. -/
def Obligations.DecodeChecksInOrderThenReads : Prop :=
  ∀ (s : State) (reg : Half) (msg : List Byte), msg.length = s.msgLen.toNat → s.holds .msg 0 msg →
    let fails (e : ErrorKind) (info : BitVec 4) : StepResult :=
      .next { s with entry := false, status := s.status.failed .decode e info }
    exec (.decode reg) s =
      if msg.length < 2 then fails .malformedLength 1
      else if msg.getD 0 0 ≠ 0x3f ∨ msg.getD 1 0 ≠ 0x10 then fails .malformedHeader 0
      else if msg.length < 4 then fails .malformedLength 2
      else if 256 * (msg.getD 2 0).toNat + (msg.getD 3 0).toNat ≠ reg.toNat then fails .registerMismatch 0
      else if msg.length < 7 then fails .malformedLength 3
      else if msg.length < 7 + (msg.getD 5 0).toNat then fails .malformedLength 4
      else .next ({ s with result := readingOf msg, status := { s.status with phase := .decode, vv := true } } : State).phaseDone

/-- R190: the sign is on the scale and not on the mantissa. -/
def Obligations.SignIsOnTheScale : Prop :=
  (∀ (x : Word) (e : Int), -63 ≤ e → e ≤ 63 → x.toInt < 0 →
    (value32 x.toInt e true).getLsbD 31 = false ∧ value32 x.toInt e true ≠ 0x7FC00000) ∧
  (∀ e : Int, -63 ≤ e → e < 39 → value32 0 e true = 0x80000000) ∧
  (∀ (e : Int) (s : Bool), 39 ≤ e → e ≤ 63 → value32 0 e s = 0x7FC00000)

/-- R187: the table of powers of ten is the exact rounding of 10^e for every exponent in range. -/
def Obligations.PowersOfTenAreRounded : Prop :=
  (∀ e ∈ List.range 64, pow10_32 e = roundRat (10 ^ e) 1) ∧
  (∀ e ∈ List.range 64, pow10_32 (-(e : Int)) = roundRat 1 (10 ^ e))

/-- R187: rounding is to the nearest binary32 value, ties to the even pattern, infinity exactly from half an ulp above the largest finite value on. -/
def Obligations.RoundingIsToNearestEven : Prop :=
  ∀ n d : Nat, 0 < d →
    (roundRat n d = 0x7F800000 ↔ ((2 ^ 25 - 1) * 2 ^ 103 : ℚ) ≤ (n : ℚ) / d) ∧
    (roundRat n d ≠ 0x7F800000 → roundRat n d < 0x7F800000 ∧
      ∀ q : Word, q < 0x7F800000 →
        |patternValue (roundRat n d) - (n : ℚ) / d| ≤ |patternValue q - (n : ℚ) / d| ∧
        (q ≠ roundRat n d → |patternValue (roundRat n d) - (n : ℚ) / d| = |patternValue q - (n : ℚ) / d| →
          (roundRat n d).getLsbD 0 = false))

/-- R188: an integer of magnitude at most 2^24 converts exactly, and 0 to +0. -/
def Obligations.SmallIntegersConvertExactly : Prop :=
  (∀ x : Int, -(2 ^ 24) ≤ x → x ≤ 2 ^ 24 →
    signedValue (cvt32 x) = (x : ℚ) ∧ cvt32 x &&& 0x7FFFFFFF < 0x7F800000) ∧
  cvt32 0 = 0

/-- R189: the product of two finite patterns is their exact product rounded once, with the XOR of the signs; with an infinity it is a signed infinity, or the NaN 0x7FC00000 where the other factor is 0. -/
def Obligations.MultiplicationRoundsOnce : Prop :=
  ∀ a b : Word,
    (a &&& 0x7FFFFFFF < 0x7F800000 → b &&& 0x7FFFFFFF < 0x7F800000 →
      ∃ n d : Nat, 0 < d ∧ (n : ℚ) / d = patternValue a * patternValue b ∧
        fmul32 a b = roundRat n d ^^^ ((a ^^^ b) &&& 0x80000000)) ∧
    (a &&& 0x7FFFFFFF = 0x7F800000 → b &&& 0x7FFFFFFF ≤ 0x7F800000 →
      (b &&& 0x7FFFFFFF = 0 → fmul32 a b = 0x7FC00000 ∧ fmul32 b a = 0x7FC00000) ∧
      (b &&& 0x7FFFFFFF ≠ 0 → fmul32 a b = 0x7F800000 ^^^ ((a ^^^ b) &&& 0x80000000) ∧
        fmul32 b a = 0x7F800000 ^^^ ((a ^^^ b) &&& 0x80000000)))

/-! ## The sequencer -/

/-- R214, R16: `phase_done()`. -/
def Obligations.PhaseDoneChainsOrCompletes : Prop :=
  ∀ s : State,
    (s.status.seq = false → s.phaseDone = { s with entry := false, status := s.status.ended s.status.phase }) ∧
    (s.status.seq = true → ∀ p q : Phase,
      (p, q) ∈ [(Phase.build, Phase.send), (.send, .recv), (.recv, .unstuff), (.unstuff, .decode)] →
      s.status.phase = p → s.phaseDone = { s with entry := true, status := { s.status with phase := q } }) ∧
    (s.status.seq = true → s.status.phase = .decode →
      s.phaseDone = { s with entry := false, status := s.status.ended .decode })

/-- R15, R233: `raise` records the error, ends the command, and sets the length the failing phase was producing to 0.
That TX_IDX becomes 0 with TX_LEN is the model's choice, not R233's: R29 and R52 bound it by TX_LEN (log entry 7). -/
def Obligations.RaiseByPhase : Prop :=
  ∀ (s : State) (e : ErrorKind) (info : BitVec 4),
    s.raise e info =
      { s with
        txLen := if s.status.phase = .build then 0 else s.txLen
        txIdx := if s.status.phase = .build then 0 else s.txIdx
        rawLen := if s.status.phase = .recv then 0 else s.rawLen
        msgLen := if s.status.phase = .unstuff then 0 else s.msgLen
        entry := false
        status := s.status.failed s.status.phase e info }

/-- R216, R213, R214: the first step of READREG is the BUILD phase with SEQ = 1, and the SEND phase comes next.
What TX_IDX holds is the model's choice, not R216's: R29 and R52 bound it by the new TX_LEN, it stays where it fits and is a free value within the bound otherwise; that the frame uses up a free draw is the model's too (log entry 7). -/
def Obligations.ReadregBuildsFirst : Prop :=
  ∀ (s : State) (addr : Byte) (reg : Half), s.status.phase = .noPhase →
    ∃ t : State,
      exec (.readreg addr reg) s = .next t ∧
      t = { s with
        mem := t.mem
        crc := requestCrc addr reg
        txLen := BitVec.ofNat 8 (frame (request addr reg)).length
        txIdx := t.txIdx
        draws := s.draws + 1
        entry := true
        status := { s.status with phase := .send, seq := true } } ∧
      t.txIdx.toNat ≤ t.txLen.toNat ∧ (s.txIdx.toNat ≤ t.txLen.toNat → t.txIdx = s.txIdx) ∧
      t.holds .req 0 (request addr reg) ∧ t.holds .tx 0 (frame (request addr reg)) ∧
      ∀ x : Nat, ¬(0x10 ≤ x ∧ x < 0x17) → ¬(0x40 ≤ x ∧ x < 0x40 + (frame (request addr reg)).length) →
        Memory.read t.mem x = Memory.read s.mem x

/-- R220: from states that agree but for the sequencing fields, a phase of READREG and the single command of that phase give the same state, on the wire too, and end in the same step. -/
def Obligations.ReadregIsItsFivePhases : Prop :=
  ∀ (s t : State) (addr : Byte) (reg : Half),
    s.withoutSequencing = t.withoutSequencing → s.entry = t.entry → s.status.err = .ok → s.status.info = 0 →
    s.status.busy = true → t.status.busy = true → t.status.seq = false →
    (s.status.phase = .noPhase →
      samePhaseResult .build (exec (.readreg addr reg) s) (exec (.build addr reg) t)) ∧
    (s.status.seq = true → s.status.phase = .send →
      samePhaseResult .send (exec (.readreg addr reg) s) (exec .send t)) ∧
    (s.status.seq = true → s.status.phase = .recv →
      samePhaseResult .recv (exec (.readreg addr reg) s) (exec .recv t)) ∧
    (s.status.seq = true → s.status.phase = .unstuff →
      samePhaseResult .unstuff (exec (.readreg addr reg) s) (exec .unstuff t)) ∧
    (s.status.seq = true → s.status.phase = .decode →
      samePhaseResult .decode (exec (.readreg addr reg) s) (exec (.decode reg) t))

/-- R216, R218: one whole READREG. The host writes the word, the peer accepts the request frame, RX_INIT flushes the queue, the peer then delivers the stuffed message and the terminator within the window, and the block ends with the reading, every register and buffer as R218 lists it; every other cell is unchanged.
The free draw is the model's own field (log entry 7). -/
def Obligations.ReadregTransactionReadsTheValue : Prop :=
  ∀ (s : State) (addr : Byte) (reg : Half) (msg : List Byte),
    s.status.busy = false → s.env.txReady = true →
    crc16 msg = 0 → 7 ≤ msg.length → msg.length ≤ 40 → (msg.map stuff).flatten.length < 50 →
    msg.getD 0 0 = 0x3f → msg.getD 1 0 = 0x10 → msg.getD 2 0 ++ msg.getD 3 0 = reg →
    7 + (msg.getD 5 0).toNat ≤ msg.length →
    let sent := frame (request addr reg)
    let response := (msg.map stuff).flatten ++ [0x0d]
    ∃ u t : State,
      runBlock (sent.length + 2) (hostWrite hw 0x00 (encode (.readreg addr reg)) s) = some u ∧
      u.env = { s.env with rxQueue := [], wire := s.env.wire ++ sent } ∧
      runBlock (response.length + 2) (u.withEnv { u.env with rxQueue := response }) = some t ∧
      t = { s with
        cmd := encode (.readreg addr reg)
        mem := t.mem
        status :=
          { busy := false, phase := .decode, seq := false, err := .ok, info := 0,
            vv := true, escw := false, rej := false }
        entry := false
        txIdx := BitVec.ofNat 8 sent.length
        txLen := BitVec.ofNat 8 sent.length
        rawLen := BitVec.ofNat 8 response.length
        msgLen := BitVec.ofNat 8 msg.length
        crc := 0
        result := readingOf msg
        escCnt := 0
        escBad := 0
        startMs := s.env.nowMs
        elapsed := 0
        draws := s.draws + 1
        env := { s.env with rxQueue := [], wire := s.env.wire ++ sent } } ∧
      t.holds .req 0 (request addr reg) ∧ t.holds .tx 0 sent ∧ t.holds .raw 0 response ∧ t.holds .msg 0 msg ∧
      ∀ x : Nat, ¬(0x10 ≤ x ∧ x < 0x17) → ¬(0x40 ≤ x ∧ x < 0x40 + sent.length) →
        ¬(0x80 ≤ x ∧ x < 0x80 + response.length) → ¬(0xC0 ≤ x ∧ x < 0xC0 + msg.length) →
        Memory.read t.mem x = Memory.read s.mem x

/-- R221: every command but SEND, RECV and READREG ends in its first step. -/
def Obligations.OneStepCommandsEnd : Prop :=
  ∀ (i : Instr) (s t : State), i ≠ .send → i ≠ .recv → (∀ addr reg, i ≠ .readreg addr reg) →
    s.status.seq = false → exec i s = .next t → t.status.busy = false ∧ t.entry = false

/-! ## The host interface -/

/-- R65: a read changes no state of the block or the environment, and a write to a read-only or reserved offset changes nothing at all. -/
def Obligations.HostReadHasNoSideEffect : Prop :=
  (∀ (s : State) (off : Byte),
    act .program (s.beforeStmt (.rd off)) =
      .next { s with hostLog := s.hostLog ++ [(off, hostReadWord hw off s)], draws := s.draws + 1 }) ∧
  (∀ (s : State) (off : Byte) (v : Word), off ≠ 0x00 → off ≠ 0x07 → off ≠ 0x08 → off < 0x80 →
    act .program (s.beforeStmt (.wr off v)) = .next s)

/-- R63: a write to CMD, a length or a buffer cell while a command runs only sets REJ. -/
def Obligations.BusyWriteOnlySetsRej : Prop :=
  ∀ (s : State) (off : Byte) (v : Word), s.status.busy = true →
    off = 0x00 ∨ off = 0x07 ∨ off = 0x08 ∨ 0x80 ≤ off →
    act .program (s.beforeStmt (.wr off v)) = .next { s with status := { s.status with rej := true } }

/-- R64: what a length write and a cell write do while idle. -/
def Obligations.IdleWritesSetLengthsAndCells : Prop :=
  ∀ (s : State) (v : Word), s.status.busy = false →
    act .program (s.beforeStmt (.wr 0x07 v)) =
      .next (if v.toNat ≤ 50 then { s with rawLen := v.setWidth 8 }
        else { s with status := { s.status with rej := true } }) ∧
    act .program (s.beforeStmt (.wr 0x08 v)) =
      .next (if v.toNat ≤ 40 then { s with msgLen := v.setWidth 8 }
        else { s with status := { s.status with rej := true } }) ∧
    (∀ i : Nat, i < 50 → ∃ m : Memory,
      act .program (s.beforeStmt (.wr (0x80 + BitVec.ofNat 8 i) v)) = .next { s with mem := m } ∧
      Memory.read m (0x80 + i) = some (v.setWidth 8) ∧
      ∀ x : Nat, x ≠ 0x80 + i → Memory.read m x = Memory.read s.mem x) ∧
    (∀ i : Nat, 50 ≤ i → i < 64 → act .program (s.beforeStmt (.wr (0x80 + BitVec.ofNat 8 i) v)) = .next s) ∧
    (∀ i : Nat, i < 40 → ∃ m : Memory,
      act .program (s.beforeStmt (.wr (0xC0 + BitVec.ofNat 8 i) v)) = .next { s with mem := m } ∧
      Memory.read m (0xC0 + i) = some (v.setWidth 8) ∧
      ∀ x : Nat, x ≠ 0xC0 + i → Memory.read m x = Memory.read s.mem x) ∧
    (∀ i : Nat, 40 ≤ i → i < 64 → act .program (s.beforeStmt (.wr (0xC0 + BitVec.ofNat 8 i) v)) = .next s)

/-- R87: `wait` polls until BUSY reads 0, and any other agent's act may fall between two polls (R20); what the other pseudo-instructions stand for. -/
def Obligations.PseudoInstructionsExpand : Prop :=
  (∀ s : State,
    act .program (s.beforeStmt .wait) =
      .next { s with
        program := if s.status.busy then .wait :: s.program else s.program
        hostLog := s.hostLog ++ [(0x01, hostReadWord hw 0x01 s)]
        draws := s.draws + 1 }) ∧
  (∀ (a : Action) (s t : State), a ≠ .program → act a s = .next t → t.program = s.program) ∧
  (∀ i : Instr, issue i = [.wr 0x00 (encode i)] ∧ execCmd i = [.wr 0x00 (encode i), .wait]) ∧
  (crc16Bytes [] = execCmd .crcclr ∧
    ∀ bytes b, crc16Bytes (bytes ++ [b]) = crc16Bytes bytes ++ execCmd (.crcbyte b)) ∧
  ∀ bytes : List Byte,
    ldmsg hw bytes =
      (if bytes.length ≤ 40 then
        some (bytes.mapIdx (fun i b => .wr (0xC0 + BitVec.ofNat 8 i) (b.setWidth 32)) ++
          [.wr 0x08 (BitVec.ofNat 32 bytes.length)])
      else none) ∧
    ldraw hw bytes =
      (if bytes.length ≤ 50 then
        some (bytes.mapIdx (fun i b => .wr (0x80 + BitVec.ofNat 8 i) (b.setWidth 32)) ++
          [.wr 0x07 (BitVec.ofNat 32 bytes.length)])
      else none)

/-- R61, R26, R47, R37: what every offset reads. -/
def Obligations.RegisterMap : Prop :=
  ∀ s : State,
    hostReadWord hw 0x00 s = s.cmd ∧
    (hostReadWord hw 0x01 s).toNat =
      s.status.busy.toNat + 2 * s.status.phase.code.toNat + 2 ^ 4 * s.status.seq.toNat +
        2 ^ 8 * s.status.err.code.toNat + 2 ^ 12 * s.status.info.toNat + 2 ^ 16 * s.status.vv.toNat +
        2 ^ 17 * s.status.escw.toNat + 2 ^ 18 * s.status.rej.toNat ∧
    (hostReadWord hw 0x02 s).toNat = s.crc.toNat ∧
    hostReadWord hw 0x03 s = s.result.value ∧ hostReadWord hw 0x04 s = s.result.mant ∧
    (hostReadWord hw 0x05 s).toNat =
      2 ^ 24 * s.result.nLen.toNat + 2 ^ 16 * s.result.seRaw.toNat + 2 ^ 8 * s.result.sgn.toNat + s.result.exp.toNat ∧
    (hostReadWord hw 0x06 s).toNat = 2 ^ 8 * s.txIdx.toNat + s.txLen.toNat ∧
    (hostReadWord hw 0x07 s).toNat = s.rawLen.toNat ∧ (hostReadWord hw 0x08 s).toNat = s.msgLen.toNat ∧
    (hostReadWord hw 0x09 s).toNat = 2 ^ 8 * s.escBad.toNat + s.escCnt.toNat ∧
    hostReadWord hw 0x0A s = s.startMs ∧ hostReadWord hw 0x0B s = s.elapsed ∧
    hostReadWord hw 0x0C s = 0x40283214 ∧ hostReadWord hw 0x0D s = 200 ∧
    hostReadWord hw 0x0E s = 0x4B4D5031 ∧ hostReadWord hw 0x0F s = 0 ∧
    (∀ off : Byte, 0x17 ≤ off → off < 0x40 → hostReadWord hw off s = 0) ∧
    (∀ off : Byte, (0x54 ≤ off ∧ off < 0x80) ∨ (0xB2 ≤ off ∧ off < 0xC0) ∨ 0xE8 ≤ off → hostReadWord hw off s = 0) ∧
    (∀ off b : Byte,
      (0x10 ≤ off ∧ off < 0x17) ∨ (0x40 ≤ off ∧ off < 0x54) ∨ (0x80 ≤ off ∧ off < 0xB2) ∨ (0xC0 ≤ off ∧ off < 0xE8) →
      (Memory.read s.mem off.toNat = some b → hostReadWord hw off s = b.setWidth 32) ∧
      (Memory.read s.mem off.toNat = none → ∃ v : Byte, hostReadWord hw off s = v.setWidth 32))

/-! ## Reset -/

/-- R260, R261: every register of the block at reset and no cell written; the reset input brings any state there and leaves the environment, the program and what the host knows alone. -/
def Obligations.ResetValues : Prop :=
  (hostReadWord hw 0x01 State.reset = 0 ∧ State.reset.cmd = 0 ∧ State.reset.entry = false ∧
    State.reset.txIdx = 0 ∧ State.reset.crc = 0 ∧ State.reset.txLen = 0 ∧ State.reset.rawLen = 0 ∧
    State.reset.msgLen = 0 ∧
    State.reset.result = { mant := 0, exp := 0, sgn := false, seRaw := 0, nLen := 0, value := 0 } ∧
    State.reset.escCnt = 0 ∧ State.reset.escBad = 0 ∧ State.reset.startMs = 0 ∧ State.reset.elapsed = 0 ∧
    ∀ (b : Buffer) (i : Nat), State.reset.cell hw b i = none) ∧
  ∀ s : State,
    act .reset s =
      .next { State.reset with env := s.env, program := s.program, script := s.script, hostLog := s.hostLog, draws := s.draws }

/-! ## Invariants of every step -/

/-- R52, R35, R44, R213, R235: the register bounds, the form of the byte storage and the sequencing facts hold at reset. -/
def Obligations.InvariantsAtReset : Prop := State.reset.DataInv ∧ State.reset.SequencerInv

/-- R52, R35, R44: every step of any agent keeps them. -/
def Obligations.DataBoundsKeptByEveryStep : Prop :=
  ∀ s t : State, s.DataInv → step s = .next t → t.DataInv

/-- R52, R213, R235: every step of any agent keeps them. -/
def Obligations.SequencerFactsKeptByEveryStep : Prop :=
  ∀ s t : State, s.SequencerInv → step s = .next t → t.SequencerInv

/-- R37: from a state of a run a step stops only where a single CRCMSG, DECODE or UNSTUFF command reads a cell below MSG_LEN or RAW_LEN that has not been written; nothing else stops, READREG least of all. -/
def Obligations.OnlyUnwrittenCellsStopAStep : Prop :=
  ∀ s : State, s.DataInv → s.SequencerInv →
    (∃ t, step s = .next t) ∨
    ∃ (b : Buffer) (i : Nat), step s = .fault (.unwrittenCell b i) ∧ s.cell hw b i = none ∧
      ((b = .msg ∧ i < s.msgLen.toNat ∧ (decodeWord s.cmd = .ok .crcmsg ∨ ∃ reg, decodeWord s.cmd = .ok (.decode reg))) ∨
        (b = .raw ∧ i < s.rawLen.toNat ∧ decodeWord s.cmd = .ok .unstuff))

/-- R52: the bounds hold after every step of any agent, which every host access is. -/
def Obligations.BoundsOfR52HoldAfterEveryStep : Prop :=
  ∀ s t : State, s.DataInv → s.SequencerInv → step s = .next t →
    (t.txIdx.toNat ≤ t.txLen.toNat ∧ t.txLen.toNat ≤ 20) ∧ t.rawLen.toNat ≤ 50 ∧ t.msgLen.toNat ≤ 40 ∧
    t.crc.toNat < 2 ^ 16 ∧ (-63 ≤ t.result.exp.toInt ∧ t.result.exp.toInt ≤ 63) ∧
    (t.status.busy = false → t.entry = false ∧ t.status.seq = false)

/-! ## What no command changes -/

/-- R126: only a BUILD phase writes TXBUF or TX_LEN. -/
def Obligations.OnlyBuildWritesTheFrame : Prop :=
  ∀ (i : Instr) (s t : State), exec i s = .next t → (∀ addr reg, i ≠ .build addr reg) →
    (∀ addr reg, i = .readreg addr reg → s.status.phase ≠ .noPhase) →
    t.txLen = s.txLen ∧ ∀ x : Nat, 0x40 ≤ x → x < 0x54 → Memory.read t.mem x = Memory.read s.mem x

/-- R48, R43: only a DECODE phase that succeeds writes the result registers or sets VV. -/
def Obligations.OnlyDecodeWritesTheResult : Prop :=
  ∀ (i : Instr) (s t : State), exec i s = .next t →
    (t.result = s.result ∧ t.status.vv = s.status.vv) ∨
    (t.status.vv = true ∧ t.status.phase = .decode ∧ t.status.err = .ok ∧
      ∃ reg, i = .decode reg ∨ ∃ addr, i = .readreg addr reg ∧ s.status.phase = .decode)

/-- R273, R225, R26: no command changes CMD, REJ, the time or the peer's readiness, takes back a transmitted byte, or writes a cell outside the buffers; only a SEND phase transmits and only a RECV phase takes from the queue.
A BUILD phase uses up a free draw, the model's own field (log entry 7). -/
def Obligations.NoCommandTouchesTheRest : Prop :=
  ∀ (i : Instr) (s t : State), exec i s = .next t →
    t.cmd = s.cmd ∧ t.status.rej = s.status.rej ∧ t.env.nowMs = s.env.nowMs ∧ t.env.txReady = s.env.txReady ∧
    t.program = s.program ∧ t.script = s.script ∧ t.hostLog = s.hostLog ∧
    (t.draws = s.draws ∨ ∃ addr reg, i = .build addr reg ∨ i = .readreg addr reg ∧ s.status.phase = .noPhase) ∧
    (t.env.wire = s.env.wire ∨
      ∃ b : Byte, t.env.wire = s.env.wire ++ [b] ∧ (i = .send ∨ ∃ addr reg, i = .readreg addr reg ∧ s.status.phase = .send)) ∧
    (t.env.rxQueue = s.env.rxQueue ∨ i = .recv ∨ ∃ addr reg, i = .readreg addr reg ∧ s.status.phase = .recv) ∧
    ∀ x : Nat, (∀ (b : Buffer) (k : Nat), k < b.cap hw → x ≠ b.base + k) → Memory.read t.mem x = Memory.read s.mem x
end

