-- ==== Sys2Proof/Laws/Memory.lean ====
section
/-! SUPPORT. The laws of byte storage: a read after a write, what a write leaves alone, and that every operation keeps the canonical form. -/

namespace Sys2Proof.Machine

@[simp] theorem read_nil (a : Nat) : Memory.read [] a = none := rfl

/-- A read at the address just written gives the byte written. -/
@[simp] theorem read_write_same (m : Memory) (a : Nat) (b : Byte) :
    Memory.read (Memory.write m a b) a = some b := by
  induction m with
  | nil => simp [Memory.write, Memory.read]
  | cons x rest ih =>
    obtain ⟨k, v⟩ := x
    unfold Memory.write
    split
    · simp [Memory.read]
    · split
      · simp [Memory.read]
      · have : k ≠ a := by omega
        simp [Memory.read, this, ih]

/-- A write leaves every other address alone. -/
theorem read_write_other (m : Memory) {a x : Nat} (b : Byte) (h : x ≠ a) :
    Memory.read (Memory.write m a b) x = Memory.read m x := by
  have h' : a ≠ x := fun e => h e.symm
  induction m with
  | nil => simp [Memory.write, Memory.read, h']
  | cons y rest ih =>
    obtain ⟨k, v⟩ := y
    unfold Memory.write
    split
    · simp [Memory.read, h']
    · split
      · subst_vars
        simp [Memory.read, h']
      · simp only [Memory.read, ih]

theorem read_write (m : Memory) (a x : Nat) (b : Byte) :
    Memory.read (Memory.write m a b) x = if x = a then some b else Memory.read m x := by
  split
  · subst_vars
    exact read_write_same m _ b
  · exact read_write_other m b ‹_›

/-- A read after a write of consecutive bytes. -/
theorem read_writeBytes (m : Memory) (a x : Nat) (bytes : List Byte) :
    Memory.read (Memory.writeBytes m a bytes) x =
      if a ≤ x ∧ x < a + bytes.length then bytes[x - a]? else Memory.read m x := by
  induction bytes generalizing m a with
  | nil =>
    have : ¬(a ≤ x ∧ x < a + ([] : List Byte).length) := by simp only [List.length_nil]; omega
    rw [if_neg this]; rfl
  | cons b bs ih =>
    rw [Memory.writeBytes, ih, read_write]
    by_cases h : x = a
    · subst h
      simp
    · by_cases h2 : a + 1 ≤ x ∧ x < a + 1 + bs.length
      · have h3 : a ≤ x ∧ x < a + (b :: bs).length := by simp only [List.length_cons]; omega
        have h4 : x - a = (x - (a + 1)) + 1 := by omega
        rw [if_pos h2, if_pos h3, h4, List.getElem?_cons_succ]
      · have h3 : ¬(a ≤ x ∧ x < a + (b :: bs).length) := by simp only [List.length_cons]; omega
        rw [if_neg h2, if_neg h3, if_neg h]

/-- Consecutive writes leave every address outside them alone. -/
theorem read_writeBytes_outside (m : Memory) {a x : Nat} (bytes : List Byte)
    (h : ¬(a ≤ x ∧ x < a + bytes.length)) :
    Memory.read (Memory.writeBytes m a bytes) x = Memory.read m x := by
  rw [read_writeBytes, if_neg h]

/-- The address a write adds comes first only if it lies below the old first one. -/
theorem head_write (m : Memory) (a : Nat) (b : Byte) :
    ∃ v rest, Memory.write m a b = (min a ((m.head?.map Prod.fst).getD a), v) :: rest := by
  cases m with
  | nil => exact ⟨b, [], by simp [Memory.write]⟩
  | cons x rest =>
    obtain ⟨k, v⟩ := x
    unfold Memory.write
    split
    · exact ⟨b, (k, v) :: rest, by simp; omega⟩
    · split
      · exact ⟨b, rest, by simp; omega⟩
      · exact ⟨v, Memory.write rest a b, by simp; omega⟩

theorem wf_cons {x : Host.Cell} {m : Memory} (h : Memory.wf (x :: m) = true) : Memory.wf m = true := by
  cases m with
  | nil => rfl
  | cons y rest =>
    simp only [Memory.wf, Bool.and_eq_true] at h
    exact h.2

theorem wf_cons_of {k : Nat} {v : Byte} {m : Memory} (hm : Memory.wf m = true)
    (hk : ∀ y ∈ m.head?, k < y.1) : Memory.wf ((k, v) :: m) = true := by
  cases m with
  | nil => rfl
  | cons y rest => simpa [Memory.wf, hm] using hk y

/-- A write keeps the canonical form. -/
theorem wf_write (m : Memory) (a : Nat) (b : Byte) (h : Memory.wf m = true) :
    Memory.wf (Memory.write m a b) = true := by
  induction m with
  | nil => rfl
  | cons x rest ih =>
    obtain ⟨k, v⟩ := x
    have hrest := wf_cons h
    unfold Memory.write
    split
    · exact wf_cons_of h (by simpa)
    · split
      · subst_vars
        refine wf_cons_of hrest ?_
        cases rest with
        | nil => simp
        | cons y r =>
          simp only [Memory.wf, Bool.and_eq_true, decide_eq_true_eq] at h
          simpa using h.1
      · refine wf_cons_of (ih hrest) ?_
        obtain ⟨w, r, e⟩ := head_write rest a b
        rw [e]
        cases rest with
        | nil => simp; omega
        | cons y r =>
          simp only [Memory.wf, Bool.and_eq_true, decide_eq_true_eq] at h
          have := h.1
          simp
          omega

/-- Consecutive writes keep the canonical form. -/
theorem wf_writeBytes (m : Memory) (a : Nat) (bytes : List Byte) (h : Memory.wf m = true) :
    Memory.wf (Memory.writeBytes m a bytes) = true := by
  induction bytes generalizing m a with
  | nil => exact h
  | cons b bs ih => exact ih _ _ (wf_write m a b h)

/-- Every address listed after a write was listed before or is the one written. -/
theorem mem_write {m : Memory} {a : Nat} {b : Byte} {x : Host.Cell} (h : x ∈ Memory.write m a b) :
    x ∈ m ∨ x.1 = a := by
  induction m with
  | nil =>
    simp only [Memory.write, List.mem_singleton] at h
    exact .inr (by rw [h])
  | cons y rest ih =>
    obtain ⟨k, v⟩ := y
    unfold Memory.write at h
    split at h
    · rcases List.mem_cons.1 h with e | e
      · exact .inr (by rw [e])
      · exact .inl e
    · split at h
      · rcases List.mem_cons.1 h with e | e
        · exact .inr (by rw [e])
        · exact .inl (List.mem_cons_of_mem _ e)
      · rcases List.mem_cons.1 h with e | e
        · exact .inl (e ▸ List.mem_cons_self)
        · rcases ih e with e | e
          · exact .inl (List.mem_cons_of_mem _ e)
          · exact .inr e

/-- Every address listed after consecutive writes was listed before or is one of those written. -/
theorem mem_writeBytes {m : Memory} {a : Nat} {bytes : List Byte} {x : Host.Cell}
    (h : x ∈ Memory.writeBytes m a bytes) : x ∈ m ∨ (a ≤ x.1 ∧ x.1 < a + bytes.length) := by
  induction bytes generalizing m a with
  | nil => exact .inl h
  | cons b bs ih =>
    simp only [List.length_cons]
    rcases ih h with e | e
    · rcases mem_write e with e | e
      · exact .inl e
      · exact .inr (by omega)
    · exact .inr (by omega)

end Sys2Proof.Machine
end

