-- ==== Sys2Proof/Laws/State.lean ====
section
/-! SUPPORT. One lemma per field per named update of State, so that no later proof unfolds a record update. -/

namespace Sys2Proof.Machine

/-! the widths of this hardware -/

/-- TIME_W is 32 here: a time value is its whole word (R7). -/
@[simp] theorem timeBits_hw (v : Word) : timeBits hw v = v := rfl

@[simp] theorem sinceStart_hw (s : State) : s.sinceStart hw = s.env.nowMs - s.startMs := rfl

/-! the environment's acts and the program -/

@[simp] theorem deliver_eq (s : State) (b : Byte) :
    s.deliver b = s.withEnv { s.env with rxQueue := s.env.rxQueue ++ [b] } := rfl

@[simp] theorem advance_eq (s : State) (d : Word) :
    s.advance d = s.withEnv { s.env with nowMs := s.env.nowMs + d } := rfl

/-- The program's act does nothing, a statement, or one poll of a `wait` that stays while BUSY is 1 (R86, R87). -/
theorem programStep_cases (s : State) :
    (s.program = [] ∧ programStep s = s) ∨
    (∃ st rest, s.program = st :: rest ∧ st ≠ .wait ∧ programStep s = runStmt st { s with program := rest }) ∨
    (∃ rest, s.program = .wait :: rest ∧ s.status.busy = true ∧ programStep s = hostRead 0x01 s) ∨
    (∃ rest, s.program = .wait :: rest ∧ s.status.busy = false ∧
      programStep s = hostRead 0x01 { s with program := rest }) := by
  obtain ⟨cmd, status, entry, txIdx, txLen, rawLen, msgLen, crc, mem, result, escCnt, escBad, startMs, elapsed, env,
    program, script, hostLog, draws⟩ := s
  cases program with
  | nil => exact .inl ⟨rfl, rfl⟩
  | cons st rest =>
    by_cases hst : st = .wait
    · subst hst
      cases hb : status.busy with
      | true => exact .inr (.inr (.inl ⟨rest, rfl, rfl, by simp [programStep, runStmt, pollBusy, hostRead, hb]; rfl⟩))
      | false => exact .inr (.inr (.inr ⟨rest, rfl, rfl, by simp [programStep, runStmt, pollBusy, hb]⟩))
    · exact .inr (.inl ⟨st, rest, rfl, hst, rfl⟩)

/-! TX_IDX under a new TX_LEN -/

/-- R29's bound, whatever the free value is. -/
theorem indexWithin_le (s : State) (n : Byte) : (s.indexWithin n).toNat ≤ n.toNat := by
  unfold State.indexWithin
  split
  · assumption
  · have := Nat.mod_lt (Config.freeIndex s.draws) (show 0 < n.toNat + 1 by omega)
    have := n.isLt
    rw [BitVec.toNat_ofNat, Nat.mod_eq_of_lt (by omega)]
    omega

/-- An index within the new length stays. -/
theorem indexWithin_of_le {s : State} {n : Byte} (h : s.txIdx.toNat ≤ n.toNat) : s.indexWithin n = s.txIdx :=
  if_pos h

/-! `STATUS.PHASE <- p` -/

@[simp] theorem setPhase_cmd (s : State) (p : Phase) : (s.setPhase p).cmd = s.cmd := rfl
@[simp] theorem setPhase_status (s : State) (p : Phase) : (s.setPhase p).status = { s.status with phase := p } := rfl
@[simp] theorem setPhase_entry (s : State) (p : Phase) : (s.setPhase p).entry = s.entry := rfl
@[simp] theorem setPhase_txIdx (s : State) (p : Phase) : (s.setPhase p).txIdx = s.txIdx := rfl
@[simp] theorem setPhase_txLen (s : State) (p : Phase) : (s.setPhase p).txLen = s.txLen := rfl
@[simp] theorem setPhase_rawLen (s : State) (p : Phase) : (s.setPhase p).rawLen = s.rawLen := rfl
@[simp] theorem setPhase_msgLen (s : State) (p : Phase) : (s.setPhase p).msgLen = s.msgLen := rfl
@[simp] theorem setPhase_crc (s : State) (p : Phase) : (s.setPhase p).crc = s.crc := rfl
@[simp] theorem setPhase_mem (s : State) (p : Phase) : (s.setPhase p).mem = s.mem := rfl
@[simp] theorem setPhase_result (s : State) (p : Phase) : (s.setPhase p).result = s.result := rfl
@[simp] theorem setPhase_escCnt (s : State) (p : Phase) : (s.setPhase p).escCnt = s.escCnt := rfl
@[simp] theorem setPhase_escBad (s : State) (p : Phase) : (s.setPhase p).escBad = s.escBad := rfl
@[simp] theorem setPhase_startMs (s : State) (p : Phase) : (s.setPhase p).startMs = s.startMs := rfl
@[simp] theorem setPhase_elapsed (s : State) (p : Phase) : (s.setPhase p).elapsed = s.elapsed := rfl
@[simp] theorem setPhase_env (s : State) (p : Phase) : (s.setPhase p).env = s.env := rfl
@[simp] theorem setPhase_program (s : State) (p : Phase) : (s.setPhase p).program = s.program := rfl
@[simp] theorem setPhase_script (s : State) (p : Phase) : (s.setPhase p).script = s.script := rfl
@[simp] theorem setPhase_hostLog (s : State) (p : Phase) : (s.setPhase p).hostLog = s.hostLog := rfl
@[simp] theorem setPhase_draws (s : State) (p : Phase) : (s.setPhase p).draws = s.draws := rfl

/-! what `raise` and `complete()` share -/

@[simp] theorem finish_cmd (s : State) (e : ErrorKind) (n : BitVec 4) : (s.finish e n).cmd = s.cmd := rfl
@[simp] theorem finish_status (s : State) (e : ErrorKind) (n : BitVec 4) : (s.finish e n).status = { s.status with busy := false, seq := false, err := e, info := n } := rfl
@[simp] theorem finish_entry (s : State) (e : ErrorKind) (n : BitVec 4) : (s.finish e n).entry = false := rfl
@[simp] theorem finish_txIdx (s : State) (e : ErrorKind) (n : BitVec 4) : (s.finish e n).txIdx = s.txIdx := rfl
@[simp] theorem finish_txLen (s : State) (e : ErrorKind) (n : BitVec 4) : (s.finish e n).txLen = s.txLen := rfl
@[simp] theorem finish_rawLen (s : State) (e : ErrorKind) (n : BitVec 4) : (s.finish e n).rawLen = s.rawLen := rfl
@[simp] theorem finish_msgLen (s : State) (e : ErrorKind) (n : BitVec 4) : (s.finish e n).msgLen = s.msgLen := rfl
@[simp] theorem finish_crc (s : State) (e : ErrorKind) (n : BitVec 4) : (s.finish e n).crc = s.crc := rfl
@[simp] theorem finish_mem (s : State) (e : ErrorKind) (n : BitVec 4) : (s.finish e n).mem = s.mem := rfl
@[simp] theorem finish_result (s : State) (e : ErrorKind) (n : BitVec 4) : (s.finish e n).result = s.result := rfl
@[simp] theorem finish_escCnt (s : State) (e : ErrorKind) (n : BitVec 4) : (s.finish e n).escCnt = s.escCnt := rfl
@[simp] theorem finish_escBad (s : State) (e : ErrorKind) (n : BitVec 4) : (s.finish e n).escBad = s.escBad := rfl
@[simp] theorem finish_startMs (s : State) (e : ErrorKind) (n : BitVec 4) : (s.finish e n).startMs = s.startMs := rfl
@[simp] theorem finish_elapsed (s : State) (e : ErrorKind) (n : BitVec 4) : (s.finish e n).elapsed = s.elapsed := rfl
@[simp] theorem finish_env (s : State) (e : ErrorKind) (n : BitVec 4) : (s.finish e n).env = s.env := rfl
@[simp] theorem finish_program (s : State) (e : ErrorKind) (n : BitVec 4) : (s.finish e n).program = s.program := rfl
@[simp] theorem finish_script (s : State) (e : ErrorKind) (n : BitVec 4) : (s.finish e n).script = s.script := rfl
@[simp] theorem finish_hostLog (s : State) (e : ErrorKind) (n : BitVec 4) : (s.finish e n).hostLog = s.hostLog := rfl
@[simp] theorem finish_draws (s : State) (e : ErrorKind) (n : BitVec 4) : (s.finish e n).draws = s.draws := rfl

/-! `complete()` -/

@[simp] theorem complete_cmd (s : State) : (s.complete).cmd = s.cmd := rfl
@[simp] theorem complete_status (s : State) : (s.complete).status = { s.status with busy := false, seq := false, err := .ok, info := 0 } := rfl
@[simp] theorem complete_entry (s : State) : (s.complete).entry = false := rfl
@[simp] theorem complete_txIdx (s : State) : (s.complete).txIdx = s.txIdx := rfl
@[simp] theorem complete_txLen (s : State) : (s.complete).txLen = s.txLen := rfl
@[simp] theorem complete_rawLen (s : State) : (s.complete).rawLen = s.rawLen := rfl
@[simp] theorem complete_msgLen (s : State) : (s.complete).msgLen = s.msgLen := rfl
@[simp] theorem complete_crc (s : State) : (s.complete).crc = s.crc := rfl
@[simp] theorem complete_mem (s : State) : (s.complete).mem = s.mem := rfl
@[simp] theorem complete_result (s : State) : (s.complete).result = s.result := rfl
@[simp] theorem complete_escCnt (s : State) : (s.complete).escCnt = s.escCnt := rfl
@[simp] theorem complete_escBad (s : State) : (s.complete).escBad = s.escBad := rfl
@[simp] theorem complete_startMs (s : State) : (s.complete).startMs = s.startMs := rfl
@[simp] theorem complete_elapsed (s : State) : (s.complete).elapsed = s.elapsed := rfl
@[simp] theorem complete_env (s : State) : (s.complete).env = s.env := rfl
@[simp] theorem complete_program (s : State) : (s.complete).program = s.program := rfl
@[simp] theorem complete_script (s : State) : (s.complete).script = s.script := rfl
@[simp] theorem complete_hostLog (s : State) : (s.complete).hostLog = s.hostLog := rfl
@[simp] theorem complete_draws (s : State) : (s.complete).draws = s.draws := rfl

/-! the length a failing phase zeroes -/

@[simp] theorem zeroOutput_cmd (s : State) : (s.zeroOutput).cmd = s.cmd := by
  unfold State.zeroOutput; cases s.status.phase <;> rfl
@[simp] theorem zeroOutput_status (s : State) : (s.zeroOutput).status = s.status := by
  unfold State.zeroOutput; cases s.status.phase <;> rfl
@[simp] theorem zeroOutput_entry (s : State) : (s.zeroOutput).entry = s.entry := by
  unfold State.zeroOutput; cases s.status.phase <;> rfl
@[simp] theorem zeroOutput_txIdx (s : State) : (s.zeroOutput).txIdx = if s.status.phase = .build then 0 else s.txIdx := by
  unfold State.zeroOutput; cases s.status.phase <;> rfl
@[simp] theorem zeroOutput_txLen (s : State) : (s.zeroOutput).txLen = if s.status.phase = .build then 0 else s.txLen := by
  unfold State.zeroOutput; cases s.status.phase <;> rfl
@[simp] theorem zeroOutput_rawLen (s : State) : (s.zeroOutput).rawLen = if s.status.phase = .recv then 0 else s.rawLen := by
  unfold State.zeroOutput; cases s.status.phase <;> rfl
@[simp] theorem zeroOutput_msgLen (s : State) : (s.zeroOutput).msgLen = if s.status.phase = .unstuff then 0 else s.msgLen := by
  unfold State.zeroOutput; cases s.status.phase <;> rfl
@[simp] theorem zeroOutput_crc (s : State) : (s.zeroOutput).crc = s.crc := by
  unfold State.zeroOutput; cases s.status.phase <;> rfl
@[simp] theorem zeroOutput_mem (s : State) : (s.zeroOutput).mem = s.mem := by
  unfold State.zeroOutput; cases s.status.phase <;> rfl
@[simp] theorem zeroOutput_result (s : State) : (s.zeroOutput).result = s.result := by
  unfold State.zeroOutput; cases s.status.phase <;> rfl
@[simp] theorem zeroOutput_escCnt (s : State) : (s.zeroOutput).escCnt = s.escCnt := by
  unfold State.zeroOutput; cases s.status.phase <;> rfl
@[simp] theorem zeroOutput_escBad (s : State) : (s.zeroOutput).escBad = s.escBad := by
  unfold State.zeroOutput; cases s.status.phase <;> rfl
@[simp] theorem zeroOutput_startMs (s : State) : (s.zeroOutput).startMs = s.startMs := by
  unfold State.zeroOutput; cases s.status.phase <;> rfl
@[simp] theorem zeroOutput_elapsed (s : State) : (s.zeroOutput).elapsed = s.elapsed := by
  unfold State.zeroOutput; cases s.status.phase <;> rfl
@[simp] theorem zeroOutput_env (s : State) : (s.zeroOutput).env = s.env := by
  unfold State.zeroOutput; cases s.status.phase <;> rfl
@[simp] theorem zeroOutput_program (s : State) : (s.zeroOutput).program = s.program := by
  unfold State.zeroOutput; cases s.status.phase <;> rfl
@[simp] theorem zeroOutput_script (s : State) : (s.zeroOutput).script = s.script := by
  unfold State.zeroOutput; cases s.status.phase <;> rfl
@[simp] theorem zeroOutput_hostLog (s : State) : (s.zeroOutput).hostLog = s.hostLog := by
  unfold State.zeroOutput; cases s.status.phase <;> rfl
@[simp] theorem zeroOutput_draws (s : State) : (s.zeroOutput).draws = s.draws := by
  unfold State.zeroOutput; cases s.status.phase <;> rfl

/-! `raise` -/

@[simp] theorem raise_cmd (s : State) (e : ErrorKind) (n : BitVec 4) : (s.raise e n).cmd = s.cmd := by
  simp [State.raise]
@[simp] theorem raise_status (s : State) (e : ErrorKind) (n : BitVec 4) : (s.raise e n).status = { s.status with busy := false, seq := false, err := e, info := n } := by
  simp [State.raise]
@[simp] theorem raise_entry (s : State) (e : ErrorKind) (n : BitVec 4) : (s.raise e n).entry = false := by
  simp [State.raise]
@[simp] theorem raise_txIdx (s : State) (e : ErrorKind) (n : BitVec 4) : (s.raise e n).txIdx = if s.status.phase = .build then 0 else s.txIdx := by
  simp [State.raise]
@[simp] theorem raise_txLen (s : State) (e : ErrorKind) (n : BitVec 4) : (s.raise e n).txLen = if s.status.phase = .build then 0 else s.txLen := by
  simp [State.raise]
@[simp] theorem raise_rawLen (s : State) (e : ErrorKind) (n : BitVec 4) : (s.raise e n).rawLen = if s.status.phase = .recv then 0 else s.rawLen := by
  simp [State.raise]
@[simp] theorem raise_msgLen (s : State) (e : ErrorKind) (n : BitVec 4) : (s.raise e n).msgLen = if s.status.phase = .unstuff then 0 else s.msgLen := by
  simp [State.raise]
@[simp] theorem raise_crc (s : State) (e : ErrorKind) (n : BitVec 4) : (s.raise e n).crc = s.crc := by
  simp [State.raise]
@[simp] theorem raise_mem (s : State) (e : ErrorKind) (n : BitVec 4) : (s.raise e n).mem = s.mem := by
  simp [State.raise]
@[simp] theorem raise_result (s : State) (e : ErrorKind) (n : BitVec 4) : (s.raise e n).result = s.result := by
  simp [State.raise]
@[simp] theorem raise_escCnt (s : State) (e : ErrorKind) (n : BitVec 4) : (s.raise e n).escCnt = s.escCnt := by
  simp [State.raise]
@[simp] theorem raise_escBad (s : State) (e : ErrorKind) (n : BitVec 4) : (s.raise e n).escBad = s.escBad := by
  simp [State.raise]
@[simp] theorem raise_startMs (s : State) (e : ErrorKind) (n : BitVec 4) : (s.raise e n).startMs = s.startMs := by
  simp [State.raise]
@[simp] theorem raise_elapsed (s : State) (e : ErrorKind) (n : BitVec 4) : (s.raise e n).elapsed = s.elapsed := by
  simp [State.raise]
@[simp] theorem raise_env (s : State) (e : ErrorKind) (n : BitVec 4) : (s.raise e n).env = s.env := by
  simp [State.raise]
@[simp] theorem raise_program (s : State) (e : ErrorKind) (n : BitVec 4) : (s.raise e n).program = s.program := by
  simp [State.raise]
@[simp] theorem raise_script (s : State) (e : ErrorKind) (n : BitVec 4) : (s.raise e n).script = s.script := by
  simp [State.raise]
@[simp] theorem raise_hostLog (s : State) (e : ErrorKind) (n : BitVec 4) : (s.raise e n).hostLog = s.hostLog := by
  simp [State.raise]
@[simp] theorem raise_draws (s : State) (e : ErrorKind) (n : BitVec 4) : (s.raise e n).draws = s.draws := by
  simp [State.raise]

/-! the next phase of a READREG -/

@[simp] theorem enterPhase_cmd (s : State) (p : Phase) : (s.enterPhase p).cmd = s.cmd := rfl
@[simp] theorem enterPhase_status (s : State) (p : Phase) : (s.enterPhase p).status = { s.status with phase := p } := rfl
@[simp] theorem enterPhase_entry (s : State) (p : Phase) : (s.enterPhase p).entry = true := rfl
@[simp] theorem enterPhase_txIdx (s : State) (p : Phase) : (s.enterPhase p).txIdx = s.txIdx := rfl
@[simp] theorem enterPhase_txLen (s : State) (p : Phase) : (s.enterPhase p).txLen = s.txLen := rfl
@[simp] theorem enterPhase_rawLen (s : State) (p : Phase) : (s.enterPhase p).rawLen = s.rawLen := rfl
@[simp] theorem enterPhase_msgLen (s : State) (p : Phase) : (s.enterPhase p).msgLen = s.msgLen := rfl
@[simp] theorem enterPhase_crc (s : State) (p : Phase) : (s.enterPhase p).crc = s.crc := rfl
@[simp] theorem enterPhase_mem (s : State) (p : Phase) : (s.enterPhase p).mem = s.mem := rfl
@[simp] theorem enterPhase_result (s : State) (p : Phase) : (s.enterPhase p).result = s.result := rfl
@[simp] theorem enterPhase_escCnt (s : State) (p : Phase) : (s.enterPhase p).escCnt = s.escCnt := rfl
@[simp] theorem enterPhase_escBad (s : State) (p : Phase) : (s.enterPhase p).escBad = s.escBad := rfl
@[simp] theorem enterPhase_startMs (s : State) (p : Phase) : (s.enterPhase p).startMs = s.startMs := rfl
@[simp] theorem enterPhase_elapsed (s : State) (p : Phase) : (s.enterPhase p).elapsed = s.elapsed := rfl
@[simp] theorem enterPhase_env (s : State) (p : Phase) : (s.enterPhase p).env = s.env := rfl
@[simp] theorem enterPhase_program (s : State) (p : Phase) : (s.enterPhase p).program = s.program := rfl
@[simp] theorem enterPhase_script (s : State) (p : Phase) : (s.enterPhase p).script = s.script := rfl
@[simp] theorem enterPhase_hostLog (s : State) (p : Phase) : (s.enterPhase p).hostLog = s.hostLog := rfl
@[simp] theorem enterPhase_draws (s : State) (p : Phase) : (s.enterPhase p).draws = s.draws := rfl

/-! `phase_done()`, beside ENTRY and STATUS -/

@[simp] theorem phaseDone_cmd (s : State) : (s.phaseDone).cmd = s.cmd := by
  unfold State.phaseDone; split <;> rfl
@[simp] theorem phaseDone_txIdx (s : State) : (s.phaseDone).txIdx = s.txIdx := by
  unfold State.phaseDone; split <;> rfl
@[simp] theorem phaseDone_txLen (s : State) : (s.phaseDone).txLen = s.txLen := by
  unfold State.phaseDone; split <;> rfl
@[simp] theorem phaseDone_rawLen (s : State) : (s.phaseDone).rawLen = s.rawLen := by
  unfold State.phaseDone; split <;> rfl
@[simp] theorem phaseDone_msgLen (s : State) : (s.phaseDone).msgLen = s.msgLen := by
  unfold State.phaseDone; split <;> rfl
@[simp] theorem phaseDone_crc (s : State) : (s.phaseDone).crc = s.crc := by
  unfold State.phaseDone; split <;> rfl
@[simp] theorem phaseDone_mem (s : State) : (s.phaseDone).mem = s.mem := by
  unfold State.phaseDone; split <;> rfl
@[simp] theorem phaseDone_result (s : State) : (s.phaseDone).result = s.result := by
  unfold State.phaseDone; split <;> rfl
@[simp] theorem phaseDone_escCnt (s : State) : (s.phaseDone).escCnt = s.escCnt := by
  unfold State.phaseDone; split <;> rfl
@[simp] theorem phaseDone_escBad (s : State) : (s.phaseDone).escBad = s.escBad := by
  unfold State.phaseDone; split <;> rfl
@[simp] theorem phaseDone_startMs (s : State) : (s.phaseDone).startMs = s.startMs := by
  unfold State.phaseDone; split <;> rfl
@[simp] theorem phaseDone_elapsed (s : State) : (s.phaseDone).elapsed = s.elapsed := by
  unfold State.phaseDone; split <;> rfl
@[simp] theorem phaseDone_env (s : State) : (s.phaseDone).env = s.env := by
  unfold State.phaseDone; split <;> rfl
@[simp] theorem phaseDone_program (s : State) : (s.phaseDone).program = s.program := by
  unfold State.phaseDone; split <;> rfl
@[simp] theorem phaseDone_script (s : State) : (s.phaseDone).script = s.script := by
  unfold State.phaseDone; split <;> rfl
@[simp] theorem phaseDone_hostLog (s : State) : (s.phaseDone).hostLog = s.hostLog := by
  unfold State.phaseDone; split <;> rfl
@[simp] theorem phaseDone_draws (s : State) : (s.phaseDone).draws = s.draws := by
  unfold State.phaseDone; split <;> rfl

/-! a store into a buffer -/

@[simp] theorem store_cmd (s : State) (b : Buffer) (i : Nat) (bytes : List Byte) : (s.store b i bytes).cmd = s.cmd := rfl
@[simp] theorem store_status (s : State) (b : Buffer) (i : Nat) (bytes : List Byte) : (s.store b i bytes).status = s.status := rfl
@[simp] theorem store_entry (s : State) (b : Buffer) (i : Nat) (bytes : List Byte) : (s.store b i bytes).entry = s.entry := rfl
@[simp] theorem store_txIdx (s : State) (b : Buffer) (i : Nat) (bytes : List Byte) : (s.store b i bytes).txIdx = s.txIdx := rfl
@[simp] theorem store_txLen (s : State) (b : Buffer) (i : Nat) (bytes : List Byte) : (s.store b i bytes).txLen = s.txLen := rfl
@[simp] theorem store_rawLen (s : State) (b : Buffer) (i : Nat) (bytes : List Byte) : (s.store b i bytes).rawLen = s.rawLen := rfl
@[simp] theorem store_msgLen (s : State) (b : Buffer) (i : Nat) (bytes : List Byte) : (s.store b i bytes).msgLen = s.msgLen := rfl
@[simp] theorem store_crc (s : State) (b : Buffer) (i : Nat) (bytes : List Byte) : (s.store b i bytes).crc = s.crc := rfl
@[simp] theorem store_mem (s : State) (b : Buffer) (i : Nat) (bytes : List Byte) : (s.store b i bytes).mem = Memory.writeBytes s.mem (b.base + i) bytes := rfl
@[simp] theorem store_result (s : State) (b : Buffer) (i : Nat) (bytes : List Byte) : (s.store b i bytes).result = s.result := rfl
@[simp] theorem store_escCnt (s : State) (b : Buffer) (i : Nat) (bytes : List Byte) : (s.store b i bytes).escCnt = s.escCnt := rfl
@[simp] theorem store_escBad (s : State) (b : Buffer) (i : Nat) (bytes : List Byte) : (s.store b i bytes).escBad = s.escBad := rfl
@[simp] theorem store_startMs (s : State) (b : Buffer) (i : Nat) (bytes : List Byte) : (s.store b i bytes).startMs = s.startMs := rfl
@[simp] theorem store_elapsed (s : State) (b : Buffer) (i : Nat) (bytes : List Byte) : (s.store b i bytes).elapsed = s.elapsed := rfl
@[simp] theorem store_env (s : State) (b : Buffer) (i : Nat) (bytes : List Byte) : (s.store b i bytes).env = s.env := rfl
@[simp] theorem store_program (s : State) (b : Buffer) (i : Nat) (bytes : List Byte) : (s.store b i bytes).program = s.program := rfl
@[simp] theorem store_script (s : State) (b : Buffer) (i : Nat) (bytes : List Byte) : (s.store b i bytes).script = s.script := rfl
@[simp] theorem store_hostLog (s : State) (b : Buffer) (i : Nat) (bytes : List Byte) : (s.store b i bytes).hostLog = s.hostLog := rfl
@[simp] theorem store_draws (s : State) (b : Buffer) (i : Nat) (bytes : List Byte) : (s.store b i bytes).draws = s.draws := rfl

/-! BUILD's request -/

@[simp] theorem putRequest_cmd (s : State) (addr : Byte) (reg : Half) : (s.putRequest addr reg).cmd = s.cmd := rfl
@[simp] theorem putRequest_status (s : State) (addr : Byte) (reg : Half) : (s.putRequest addr reg).status = { s.status with phase := .build } := rfl
@[simp] theorem putRequest_entry (s : State) (addr : Byte) (reg : Half) : (s.putRequest addr reg).entry = s.entry := rfl
@[simp] theorem putRequest_txIdx (s : State) (addr : Byte) (reg : Half) : (s.putRequest addr reg).txIdx = s.txIdx := rfl
@[simp] theorem putRequest_txLen (s : State) (addr : Byte) (reg : Half) : (s.putRequest addr reg).txLen = s.txLen := rfl
@[simp] theorem putRequest_rawLen (s : State) (addr : Byte) (reg : Half) : (s.putRequest addr reg).rawLen = s.rawLen := rfl
@[simp] theorem putRequest_msgLen (s : State) (addr : Byte) (reg : Half) : (s.putRequest addr reg).msgLen = s.msgLen := rfl
@[simp] theorem putRequest_crc (s : State) (addr : Byte) (reg : Half) : (s.putRequest addr reg).crc = requestCrc addr reg := rfl
@[simp] theorem putRequest_mem (s : State) (addr : Byte) (reg : Half) : (s.putRequest addr reg).mem = Memory.writeBytes s.mem reqBase (request addr reg) := rfl
@[simp] theorem putRequest_result (s : State) (addr : Byte) (reg : Half) : (s.putRequest addr reg).result = s.result := rfl
@[simp] theorem putRequest_escCnt (s : State) (addr : Byte) (reg : Half) : (s.putRequest addr reg).escCnt = s.escCnt := rfl
@[simp] theorem putRequest_escBad (s : State) (addr : Byte) (reg : Half) : (s.putRequest addr reg).escBad = s.escBad := rfl
@[simp] theorem putRequest_startMs (s : State) (addr : Byte) (reg : Half) : (s.putRequest addr reg).startMs = s.startMs := rfl
@[simp] theorem putRequest_elapsed (s : State) (addr : Byte) (reg : Half) : (s.putRequest addr reg).elapsed = s.elapsed := rfl
@[simp] theorem putRequest_env (s : State) (addr : Byte) (reg : Half) : (s.putRequest addr reg).env = s.env := rfl
@[simp] theorem putRequest_program (s : State) (addr : Byte) (reg : Half) : (s.putRequest addr reg).program = s.program := rfl
@[simp] theorem putRequest_script (s : State) (addr : Byte) (reg : Half) : (s.putRequest addr reg).script = s.script := rfl
@[simp] theorem putRequest_hostLog (s : State) (addr : Byte) (reg : Half) : (s.putRequest addr reg).hostLog = s.hostLog := rfl
@[simp] theorem putRequest_draws (s : State) (addr : Byte) (reg : Half) : (s.putRequest addr reg).draws = s.draws := rfl

/-! a byte on the wire -/

@[simp] theorem emit_cmd (s : State) (b : Byte) : (s.emit b).cmd = s.cmd := rfl
@[simp] theorem emit_status (s : State) (b : Byte) : (s.emit b).status = s.status := rfl
@[simp] theorem emit_entry (s : State) (b : Byte) : (s.emit b).entry = s.entry := rfl
@[simp] theorem emit_txIdx (s : State) (b : Byte) : (s.emit b).txIdx = s.txIdx + 1 := rfl
@[simp] theorem emit_txLen (s : State) (b : Byte) : (s.emit b).txLen = s.txLen := rfl
@[simp] theorem emit_rawLen (s : State) (b : Byte) : (s.emit b).rawLen = s.rawLen := rfl
@[simp] theorem emit_msgLen (s : State) (b : Byte) : (s.emit b).msgLen = s.msgLen := rfl
@[simp] theorem emit_crc (s : State) (b : Byte) : (s.emit b).crc = s.crc := rfl
@[simp] theorem emit_mem (s : State) (b : Byte) : (s.emit b).mem = s.mem := rfl
@[simp] theorem emit_result (s : State) (b : Byte) : (s.emit b).result = s.result := rfl
@[simp] theorem emit_escCnt (s : State) (b : Byte) : (s.emit b).escCnt = s.escCnt := rfl
@[simp] theorem emit_escBad (s : State) (b : Byte) : (s.emit b).escBad = s.escBad := rfl
@[simp] theorem emit_startMs (s : State) (b : Byte) : (s.emit b).startMs = s.startMs := rfl
@[simp] theorem emit_elapsed (s : State) (b : Byte) : (s.emit b).elapsed = s.elapsed := rfl
@[simp] theorem emit_env (s : State) (b : Byte) : (s.emit b).env = { s.env with wire := s.env.wire ++ [b] } := rfl
@[simp] theorem emit_program (s : State) (b : Byte) : (s.emit b).program = s.program := rfl
@[simp] theorem emit_script (s : State) (b : Byte) : (s.emit b).script = s.script := rfl
@[simp] theorem emit_hostLog (s : State) (b : Byte) : (s.emit b).hostLog = s.hostLog := rfl
@[simp] theorem emit_draws (s : State) (b : Byte) : (s.emit b).draws = s.draws := rfl

/-! RX_INIT -/

@[simp] theorem rxInit_cmd (c : Config) (s : State) : (rxInit c s).cmd = s.cmd := rfl
@[simp] theorem rxInit_status (c : Config) (s : State) : (rxInit c s).status = { s.status with phase := .recv } := rfl
@[simp] theorem rxInit_entry (c : Config) (s : State) : (rxInit c s).entry = false := rfl
@[simp] theorem rxInit_txIdx (c : Config) (s : State) : (rxInit c s).txIdx = s.txIdx := rfl
@[simp] theorem rxInit_txLen (c : Config) (s : State) : (rxInit c s).txLen = s.txLen := rfl
@[simp] theorem rxInit_rawLen (c : Config) (s : State) : (rxInit c s).rawLen = 0 := rfl
@[simp] theorem rxInit_msgLen (c : Config) (s : State) : (rxInit c s).msgLen = s.msgLen := rfl
@[simp] theorem rxInit_crc (c : Config) (s : State) : (rxInit c s).crc = s.crc := rfl
@[simp] theorem rxInit_mem (c : Config) (s : State) : (rxInit c s).mem = s.mem := rfl
@[simp] theorem rxInit_result (c : Config) (s : State) : (rxInit c s).result = s.result := rfl
@[simp] theorem rxInit_escCnt (c : Config) (s : State) : (rxInit c s).escCnt = s.escCnt := rfl
@[simp] theorem rxInit_escBad (c : Config) (s : State) : (rxInit c s).escBad = s.escBad := rfl
@[simp] theorem rxInit_startMs (c : Config) (s : State) : (rxInit c s).startMs = timeBits c s.env.nowMs := rfl
@[simp] theorem rxInit_elapsed (c : Config) (s : State) : (rxInit c s).elapsed = 0 := rfl
@[simp] theorem rxInit_env (c : Config) (s : State) : (rxInit c s).env = { s.env with rxQueue := [] } := rfl
@[simp] theorem rxInit_program (c : Config) (s : State) : (rxInit c s).program = s.program := rfl
@[simp] theorem rxInit_script (c : Config) (s : State) : (rxInit c s).script = s.script := rfl
@[simp] theorem rxInit_hostLog (c : Config) (s : State) : (rxInit c s).hostLog = s.hostLog := rfl
@[simp] theorem rxInit_draws (c : Config) (s : State) : (rxInit c s).draws = s.draws := rfl

/-! what the unstuff pass leaves -/

@[simp] theorem keepPass_cmd (s : State) (p : Pass) : (s.keepPass p).cmd = s.cmd := rfl
@[simp] theorem keepPass_status (s : State) (p : Pass) : (s.keepPass p).status = { s.status with escw := p.escw } := rfl
@[simp] theorem keepPass_entry (s : State) (p : Pass) : (s.keepPass p).entry = s.entry := rfl
@[simp] theorem keepPass_txIdx (s : State) (p : Pass) : (s.keepPass p).txIdx = s.txIdx := rfl
@[simp] theorem keepPass_txLen (s : State) (p : Pass) : (s.keepPass p).txLen = s.txLen := rfl
@[simp] theorem keepPass_rawLen (s : State) (p : Pass) : (s.keepPass p).rawLen = s.rawLen := rfl
@[simp] theorem keepPass_msgLen (s : State) (p : Pass) : (s.keepPass p).msgLen = s.msgLen := rfl
@[simp] theorem keepPass_crc (s : State) (p : Pass) : (s.keepPass p).crc = s.crc := rfl
@[simp] theorem keepPass_mem (s : State) (p : Pass) : (s.keepPass p).mem = Memory.writeBytes s.mem msgBase p.msg := rfl
@[simp] theorem keepPass_result (s : State) (p : Pass) : (s.keepPass p).result = s.result := rfl
@[simp] theorem keepPass_escCnt (s : State) (p : Pass) : (s.keepPass p).escCnt = p.cnt := rfl
@[simp] theorem keepPass_escBad (s : State) (p : Pass) : (s.keepPass p).escBad = p.bad := rfl
@[simp] theorem keepPass_startMs (s : State) (p : Pass) : (s.keepPass p).startMs = s.startMs := rfl
@[simp] theorem keepPass_elapsed (s : State) (p : Pass) : (s.keepPass p).elapsed = s.elapsed := rfl
@[simp] theorem keepPass_env (s : State) (p : Pass) : (s.keepPass p).env = s.env := rfl
@[simp] theorem keepPass_program (s : State) (p : Pass) : (s.keepPass p).program = s.program := rfl
@[simp] theorem keepPass_script (s : State) (p : Pass) : (s.keepPass p).script = s.script := rfl
@[simp] theorem keepPass_hostLog (s : State) (p : Pass) : (s.keepPass p).hostLog = s.hostLog := rfl
@[simp] theorem keepPass_draws (s : State) (p : Pass) : (s.keepPass p).draws = s.draws := rfl

/-! a refused host write -/

@[simp] theorem reject_cmd (s : State) : (s.reject).cmd = s.cmd := rfl
@[simp] theorem reject_status (s : State) : (s.reject).status = { s.status with rej := true } := rfl
@[simp] theorem reject_entry (s : State) : (s.reject).entry = s.entry := rfl
@[simp] theorem reject_txIdx (s : State) : (s.reject).txIdx = s.txIdx := rfl
@[simp] theorem reject_txLen (s : State) : (s.reject).txLen = s.txLen := rfl
@[simp] theorem reject_rawLen (s : State) : (s.reject).rawLen = s.rawLen := rfl
@[simp] theorem reject_msgLen (s : State) : (s.reject).msgLen = s.msgLen := rfl
@[simp] theorem reject_crc (s : State) : (s.reject).crc = s.crc := rfl
@[simp] theorem reject_mem (s : State) : (s.reject).mem = s.mem := rfl
@[simp] theorem reject_result (s : State) : (s.reject).result = s.result := rfl
@[simp] theorem reject_escCnt (s : State) : (s.reject).escCnt = s.escCnt := rfl
@[simp] theorem reject_escBad (s : State) : (s.reject).escBad = s.escBad := rfl
@[simp] theorem reject_startMs (s : State) : (s.reject).startMs = s.startMs := rfl
@[simp] theorem reject_elapsed (s : State) : (s.reject).elapsed = s.elapsed := rfl
@[simp] theorem reject_env (s : State) : (s.reject).env = s.env := rfl
@[simp] theorem reject_program (s : State) : (s.reject).program = s.program := rfl
@[simp] theorem reject_script (s : State) : (s.reject).script = s.script := rfl
@[simp] theorem reject_hostLog (s : State) : (s.reject).hostLog = s.hostLog := rfl
@[simp] theorem reject_draws (s : State) : (s.reject).draws = s.draws := rfl

/-! the environment -/

@[simp] theorem withEnv_cmd (s : State) (e : Environment) : (s.withEnv e).cmd = s.cmd := rfl
@[simp] theorem withEnv_status (s : State) (e : Environment) : (s.withEnv e).status = s.status := rfl
@[simp] theorem withEnv_entry (s : State) (e : Environment) : (s.withEnv e).entry = s.entry := rfl
@[simp] theorem withEnv_txIdx (s : State) (e : Environment) : (s.withEnv e).txIdx = s.txIdx := rfl
@[simp] theorem withEnv_txLen (s : State) (e : Environment) : (s.withEnv e).txLen = s.txLen := rfl
@[simp] theorem withEnv_rawLen (s : State) (e : Environment) : (s.withEnv e).rawLen = s.rawLen := rfl
@[simp] theorem withEnv_msgLen (s : State) (e : Environment) : (s.withEnv e).msgLen = s.msgLen := rfl
@[simp] theorem withEnv_crc (s : State) (e : Environment) : (s.withEnv e).crc = s.crc := rfl
@[simp] theorem withEnv_mem (s : State) (e : Environment) : (s.withEnv e).mem = s.mem := rfl
@[simp] theorem withEnv_result (s : State) (e : Environment) : (s.withEnv e).result = s.result := rfl
@[simp] theorem withEnv_escCnt (s : State) (e : Environment) : (s.withEnv e).escCnt = s.escCnt := rfl
@[simp] theorem withEnv_escBad (s : State) (e : Environment) : (s.withEnv e).escBad = s.escBad := rfl
@[simp] theorem withEnv_startMs (s : State) (e : Environment) : (s.withEnv e).startMs = s.startMs := rfl
@[simp] theorem withEnv_elapsed (s : State) (e : Environment) : (s.withEnv e).elapsed = s.elapsed := rfl
@[simp] theorem withEnv_env (s : State) (e : Environment) : (s.withEnv e).env = e := rfl
@[simp] theorem withEnv_program (s : State) (e : Environment) : (s.withEnv e).program = s.program := rfl
@[simp] theorem withEnv_script (s : State) (e : Environment) : (s.withEnv e).script = s.script := rfl
@[simp] theorem withEnv_hostLog (s : State) (e : Environment) : (s.withEnv e).hostLog = s.hostLog := rfl
@[simp] theorem withEnv_draws (s : State) (e : Environment) : (s.withEnv e).draws = s.draws := rfl

/-! command accept -/

@[simp] theorem acceptCommand_cmd (s : State) (w : Word) : (acceptCommand w s).cmd = w := rfl
@[simp] theorem acceptCommand_status (s : State) (w : Word) : (acceptCommand w s).status = 
    { s.status with busy := true, err := .ok, info := 0, rej := false, phase := .noPhase, seq := false,
                    vv := s.status.vv && !clearsVv w } := rfl
@[simp] theorem acceptCommand_entry (s : State) (w : Word) : (acceptCommand w s).entry = true := rfl
@[simp] theorem acceptCommand_txIdx (s : State) (w : Word) : (acceptCommand w s).txIdx = s.txIdx := rfl
@[simp] theorem acceptCommand_txLen (s : State) (w : Word) : (acceptCommand w s).txLen = s.txLen := rfl
@[simp] theorem acceptCommand_rawLen (s : State) (w : Word) : (acceptCommand w s).rawLen = s.rawLen := rfl
@[simp] theorem acceptCommand_msgLen (s : State) (w : Word) : (acceptCommand w s).msgLen = s.msgLen := rfl
@[simp] theorem acceptCommand_crc (s : State) (w : Word) : (acceptCommand w s).crc = s.crc := rfl
@[simp] theorem acceptCommand_mem (s : State) (w : Word) : (acceptCommand w s).mem = s.mem := rfl
@[simp] theorem acceptCommand_result (s : State) (w : Word) : (acceptCommand w s).result = s.result := rfl
@[simp] theorem acceptCommand_escCnt (s : State) (w : Word) : (acceptCommand w s).escCnt = s.escCnt := rfl
@[simp] theorem acceptCommand_escBad (s : State) (w : Word) : (acceptCommand w s).escBad = s.escBad := rfl
@[simp] theorem acceptCommand_startMs (s : State) (w : Word) : (acceptCommand w s).startMs = s.startMs := rfl
@[simp] theorem acceptCommand_elapsed (s : State) (w : Word) : (acceptCommand w s).elapsed = s.elapsed := rfl
@[simp] theorem acceptCommand_env (s : State) (w : Word) : (acceptCommand w s).env = s.env := rfl
@[simp] theorem acceptCommand_program (s : State) (w : Word) : (acceptCommand w s).program = s.program := rfl
@[simp] theorem acceptCommand_script (s : State) (w : Word) : (acceptCommand w s).script = s.script := rfl
@[simp] theorem acceptCommand_hostLog (s : State) (w : Word) : (acceptCommand w s).hostLog = s.hostLog := rfl
@[simp] theorem acceptCommand_draws (s : State) (w : Word) : (acceptCommand w s).draws = s.draws := rfl

/-! reset -/

@[simp] theorem resetBlock_cmd (s : State) : (resetBlock s).cmd = State.reset.cmd := rfl
@[simp] theorem resetBlock_status (s : State) : (resetBlock s).status = State.reset.status := rfl
@[simp] theorem resetBlock_entry (s : State) : (resetBlock s).entry = State.reset.entry := rfl
@[simp] theorem resetBlock_txIdx (s : State) : (resetBlock s).txIdx = State.reset.txIdx := rfl
@[simp] theorem resetBlock_txLen (s : State) : (resetBlock s).txLen = State.reset.txLen := rfl
@[simp] theorem resetBlock_rawLen (s : State) : (resetBlock s).rawLen = State.reset.rawLen := rfl
@[simp] theorem resetBlock_msgLen (s : State) : (resetBlock s).msgLen = State.reset.msgLen := rfl
@[simp] theorem resetBlock_crc (s : State) : (resetBlock s).crc = State.reset.crc := rfl
@[simp] theorem resetBlock_mem (s : State) : (resetBlock s).mem = State.reset.mem := rfl
@[simp] theorem resetBlock_result (s : State) : (resetBlock s).result = State.reset.result := rfl
@[simp] theorem resetBlock_escCnt (s : State) : (resetBlock s).escCnt = State.reset.escCnt := rfl
@[simp] theorem resetBlock_escBad (s : State) : (resetBlock s).escBad = State.reset.escBad := rfl
@[simp] theorem resetBlock_startMs (s : State) : (resetBlock s).startMs = State.reset.startMs := rfl
@[simp] theorem resetBlock_elapsed (s : State) : (resetBlock s).elapsed = State.reset.elapsed := rfl
@[simp] theorem resetBlock_env (s : State) : (resetBlock s).env = s.env := rfl
@[simp] theorem resetBlock_program (s : State) : (resetBlock s).program = s.program := rfl
@[simp] theorem resetBlock_script (s : State) : (resetBlock s).script = s.script := rfl
@[simp] theorem resetBlock_hostLog (s : State) : (resetBlock s).hostLog = s.hostLog := rfl
@[simp] theorem resetBlock_draws (s : State) : (resetBlock s).draws = s.draws := rfl

/-! a host read -/

@[simp] theorem hostRead_cmd (s : State) (off : Byte) : (hostRead off s).cmd = s.cmd := rfl
@[simp] theorem hostRead_status (s : State) (off : Byte) : (hostRead off s).status = s.status := rfl
@[simp] theorem hostRead_entry (s : State) (off : Byte) : (hostRead off s).entry = s.entry := rfl
@[simp] theorem hostRead_txIdx (s : State) (off : Byte) : (hostRead off s).txIdx = s.txIdx := rfl
@[simp] theorem hostRead_txLen (s : State) (off : Byte) : (hostRead off s).txLen = s.txLen := rfl
@[simp] theorem hostRead_rawLen (s : State) (off : Byte) : (hostRead off s).rawLen = s.rawLen := rfl
@[simp] theorem hostRead_msgLen (s : State) (off : Byte) : (hostRead off s).msgLen = s.msgLen := rfl
@[simp] theorem hostRead_crc (s : State) (off : Byte) : (hostRead off s).crc = s.crc := rfl
@[simp] theorem hostRead_mem (s : State) (off : Byte) : (hostRead off s).mem = s.mem := rfl
@[simp] theorem hostRead_result (s : State) (off : Byte) : (hostRead off s).result = s.result := rfl
@[simp] theorem hostRead_escCnt (s : State) (off : Byte) : (hostRead off s).escCnt = s.escCnt := rfl
@[simp] theorem hostRead_escBad (s : State) (off : Byte) : (hostRead off s).escBad = s.escBad := rfl
@[simp] theorem hostRead_startMs (s : State) (off : Byte) : (hostRead off s).startMs = s.startMs := rfl
@[simp] theorem hostRead_elapsed (s : State) (off : Byte) : (hostRead off s).elapsed = s.elapsed := rfl
@[simp] theorem hostRead_env (s : State) (off : Byte) : (hostRead off s).env = s.env := rfl
@[simp] theorem hostRead_program (s : State) (off : Byte) : (hostRead off s).program = s.program := rfl
@[simp] theorem hostRead_script (s : State) (off : Byte) : (hostRead off s).script = s.script := rfl
@[simp] theorem hostRead_hostLog (s : State) (off : Byte) : (hostRead off s).hostLog = s.hostLog ++ [(off, hostReadWord hw off s)] := rfl
@[simp] theorem hostRead_draws (s : State) (off : Byte) : (hostRead off s).draws = s.draws + 1 := rfl

/-! RX_WAIT up to the timeout test -/

@[simp] theorem waited_cmd (s : State) (c : Config) : (s.waited c).cmd = s.cmd := rfl
@[simp] theorem waited_status (s : State) (c : Config) : (s.waited c).status = { s.status with phase := .recv } := rfl
@[simp] theorem waited_entry (s : State) (c : Config) : (s.waited c).entry = s.entry := rfl
@[simp] theorem waited_txIdx (s : State) (c : Config) : (s.waited c).txIdx = s.txIdx := rfl
@[simp] theorem waited_txLen (s : State) (c : Config) : (s.waited c).txLen = s.txLen := rfl
@[simp] theorem waited_rawLen (s : State) (c : Config) : (s.waited c).rawLen = s.rawLen := rfl
@[simp] theorem waited_msgLen (s : State) (c : Config) : (s.waited c).msgLen = s.msgLen := rfl
@[simp] theorem waited_crc (s : State) (c : Config) : (s.waited c).crc = s.crc := rfl
@[simp] theorem waited_mem (s : State) (c : Config) : (s.waited c).mem = s.mem := rfl
@[simp] theorem waited_result (s : State) (c : Config) : (s.waited c).result = s.result := rfl
@[simp] theorem waited_escCnt (s : State) (c : Config) : (s.waited c).escCnt = s.escCnt := rfl
@[simp] theorem waited_escBad (s : State) (c : Config) : (s.waited c).escBad = s.escBad := rfl
@[simp] theorem waited_startMs (s : State) (c : Config) : (s.waited c).startMs = s.startMs := rfl
@[simp] theorem waited_elapsed (s : State) (c : Config) : (s.waited c).elapsed = s.sinceStart c := rfl
@[simp] theorem waited_env (s : State) (c : Config) : (s.waited c).env = s.env := rfl
@[simp] theorem waited_program (s : State) (c : Config) : (s.waited c).program = s.program := rfl
@[simp] theorem waited_script (s : State) (c : Config) : (s.waited c).script = s.script := rfl
@[simp] theorem waited_hostLog (s : State) (c : Config) : (s.waited c).hostLog = s.hostLog := rfl
@[simp] theorem waited_draws (s : State) (c : Config) : (s.waited c).draws = s.draws := rfl

/-! `rx_pop()` -/

@[simp] theorem popped_cmd (s : State) (rest : List Byte) : (s.popped rest).cmd = s.cmd := rfl
@[simp] theorem popped_status (s : State) (rest : List Byte) : (s.popped rest).status = s.status := rfl
@[simp] theorem popped_entry (s : State) (rest : List Byte) : (s.popped rest).entry = s.entry := rfl
@[simp] theorem popped_txIdx (s : State) (rest : List Byte) : (s.popped rest).txIdx = s.txIdx := rfl
@[simp] theorem popped_txLen (s : State) (rest : List Byte) : (s.popped rest).txLen = s.txLen := rfl
@[simp] theorem popped_rawLen (s : State) (rest : List Byte) : (s.popped rest).rawLen = s.rawLen := rfl
@[simp] theorem popped_msgLen (s : State) (rest : List Byte) : (s.popped rest).msgLen = s.msgLen := rfl
@[simp] theorem popped_crc (s : State) (rest : List Byte) : (s.popped rest).crc = s.crc := rfl
@[simp] theorem popped_mem (s : State) (rest : List Byte) : (s.popped rest).mem = s.mem := rfl
@[simp] theorem popped_result (s : State) (rest : List Byte) : (s.popped rest).result = s.result := rfl
@[simp] theorem popped_escCnt (s : State) (rest : List Byte) : (s.popped rest).escCnt = s.escCnt := rfl
@[simp] theorem popped_escBad (s : State) (rest : List Byte) : (s.popped rest).escBad = s.escBad := rfl
@[simp] theorem popped_startMs (s : State) (rest : List Byte) : (s.popped rest).startMs = s.startMs := rfl
@[simp] theorem popped_elapsed (s : State) (rest : List Byte) : (s.popped rest).elapsed = s.elapsed := rfl
@[simp] theorem popped_env (s : State) (rest : List Byte) : (s.popped rest).env = { s.env with rxQueue := rest } := rfl
@[simp] theorem popped_program (s : State) (rest : List Byte) : (s.popped rest).program = s.program := rfl
@[simp] theorem popped_script (s : State) (rest : List Byte) : (s.popped rest).script = s.script := rfl
@[simp] theorem popped_hostLog (s : State) (rest : List Byte) : (s.popped rest).hostLog = s.hostLog := rfl
@[simp] theorem popped_draws (s : State) (rest : List Byte) : (s.popped rest).draws = s.draws := rfl

/-! an append to RAW -/

@[simp] theorem appended_cmd (s : State) (b : Byte) : (s.appended b).cmd = s.cmd := rfl
@[simp] theorem appended_status (s : State) (b : Byte) : (s.appended b).status = s.status := rfl
@[simp] theorem appended_entry (s : State) (b : Byte) : (s.appended b).entry = s.entry := rfl
@[simp] theorem appended_txIdx (s : State) (b : Byte) : (s.appended b).txIdx = s.txIdx := rfl
@[simp] theorem appended_txLen (s : State) (b : Byte) : (s.appended b).txLen = s.txLen := rfl
@[simp] theorem appended_rawLen (s : State) (b : Byte) : (s.appended b).rawLen = s.rawLen + 1 := rfl
@[simp] theorem appended_msgLen (s : State) (b : Byte) : (s.appended b).msgLen = s.msgLen := rfl
@[simp] theorem appended_crc (s : State) (b : Byte) : (s.appended b).crc = s.crc := rfl
@[simp] theorem appended_mem (s : State) (b : Byte) : (s.appended b).mem = Memory.write s.mem (rawBase + s.rawLen.toNat) b := rfl
@[simp] theorem appended_result (s : State) (b : Byte) : (s.appended b).result = s.result := rfl
@[simp] theorem appended_escCnt (s : State) (b : Byte) : (s.appended b).escCnt = s.escCnt := rfl
@[simp] theorem appended_escBad (s : State) (b : Byte) : (s.appended b).escBad = s.escBad := rfl
@[simp] theorem appended_startMs (s : State) (b : Byte) : (s.appended b).startMs = s.startMs := rfl
@[simp] theorem appended_elapsed (s : State) (b : Byte) : (s.appended b).elapsed = s.elapsed := rfl
@[simp] theorem appended_env (s : State) (b : Byte) : (s.appended b).env = s.env := rfl
@[simp] theorem appended_program (s : State) (b : Byte) : (s.appended b).program = s.program := rfl
@[simp] theorem appended_script (s : State) (b : Byte) : (s.appended b).script = s.script := rfl
@[simp] theorem appended_hostLog (s : State) (b : Byte) : (s.appended b).hostLog = s.hostLog := rfl
@[simp] theorem appended_draws (s : State) (b : Byte) : (s.appended b).draws = s.draws := rfl

/-! `CRC <- v` -/

@[simp] theorem setCrc_cmd (s : State) (v : Half) : (s.setCrc v).cmd = s.cmd := rfl
@[simp] theorem setCrc_status (s : State) (v : Half) : (s.setCrc v).status = s.status := rfl
@[simp] theorem setCrc_entry (s : State) (v : Half) : (s.setCrc v).entry = s.entry := rfl
@[simp] theorem setCrc_txIdx (s : State) (v : Half) : (s.setCrc v).txIdx = s.txIdx := rfl
@[simp] theorem setCrc_txLen (s : State) (v : Half) : (s.setCrc v).txLen = s.txLen := rfl
@[simp] theorem setCrc_rawLen (s : State) (v : Half) : (s.setCrc v).rawLen = s.rawLen := rfl
@[simp] theorem setCrc_msgLen (s : State) (v : Half) : (s.setCrc v).msgLen = s.msgLen := rfl
@[simp] theorem setCrc_crc (s : State) (v : Half) : (s.setCrc v).crc = v := rfl
@[simp] theorem setCrc_mem (s : State) (v : Half) : (s.setCrc v).mem = s.mem := rfl
@[simp] theorem setCrc_result (s : State) (v : Half) : (s.setCrc v).result = s.result := rfl
@[simp] theorem setCrc_escCnt (s : State) (v : Half) : (s.setCrc v).escCnt = s.escCnt := rfl
@[simp] theorem setCrc_escBad (s : State) (v : Half) : (s.setCrc v).escBad = s.escBad := rfl
@[simp] theorem setCrc_startMs (s : State) (v : Half) : (s.setCrc v).startMs = s.startMs := rfl
@[simp] theorem setCrc_elapsed (s : State) (v : Half) : (s.setCrc v).elapsed = s.elapsed := rfl
@[simp] theorem setCrc_env (s : State) (v : Half) : (s.setCrc v).env = s.env := rfl
@[simp] theorem setCrc_program (s : State) (v : Half) : (s.setCrc v).program = s.program := rfl
@[simp] theorem setCrc_script (s : State) (v : Half) : (s.setCrc v).script = s.script := rfl
@[simp] theorem setCrc_hostLog (s : State) (v : Half) : (s.setCrc v).hostLog = s.hostLog := rfl
@[simp] theorem setCrc_draws (s : State) (v : Half) : (s.setCrc v).draws = s.draws := rfl

/-! `TX_LEN <- n` -/

@[simp] theorem setTxLen_cmd (s : State) (n : Byte) : (s.setTxLen n).cmd = s.cmd := rfl
@[simp] theorem setTxLen_status (s : State) (n : Byte) : (s.setTxLen n).status = s.status := rfl
@[simp] theorem setTxLen_entry (s : State) (n : Byte) : (s.setTxLen n).entry = s.entry := rfl
@[simp] theorem setTxLen_txIdx (s : State) (n : Byte) : (s.setTxLen n).txIdx = s.indexWithin n := rfl
@[simp] theorem setTxLen_txLen (s : State) (n : Byte) : (s.setTxLen n).txLen = n := rfl
@[simp] theorem setTxLen_rawLen (s : State) (n : Byte) : (s.setTxLen n).rawLen = s.rawLen := rfl
@[simp] theorem setTxLen_msgLen (s : State) (n : Byte) : (s.setTxLen n).msgLen = s.msgLen := rfl
@[simp] theorem setTxLen_crc (s : State) (n : Byte) : (s.setTxLen n).crc = s.crc := rfl
@[simp] theorem setTxLen_mem (s : State) (n : Byte) : (s.setTxLen n).mem = s.mem := rfl
@[simp] theorem setTxLen_result (s : State) (n : Byte) : (s.setTxLen n).result = s.result := rfl
@[simp] theorem setTxLen_escCnt (s : State) (n : Byte) : (s.setTxLen n).escCnt = s.escCnt := rfl
@[simp] theorem setTxLen_escBad (s : State) (n : Byte) : (s.setTxLen n).escBad = s.escBad := rfl
@[simp] theorem setTxLen_startMs (s : State) (n : Byte) : (s.setTxLen n).startMs = s.startMs := rfl
@[simp] theorem setTxLen_elapsed (s : State) (n : Byte) : (s.setTxLen n).elapsed = s.elapsed := rfl
@[simp] theorem setTxLen_env (s : State) (n : Byte) : (s.setTxLen n).env = s.env := rfl
@[simp] theorem setTxLen_program (s : State) (n : Byte) : (s.setTxLen n).program = s.program := rfl
@[simp] theorem setTxLen_script (s : State) (n : Byte) : (s.setTxLen n).script = s.script := rfl
@[simp] theorem setTxLen_hostLog (s : State) (n : Byte) : (s.setTxLen n).hostLog = s.hostLog := rfl
@[simp] theorem setTxLen_draws (s : State) (n : Byte) : (s.setTxLen n).draws = s.draws + 1 := rfl

/-! `RAW_LEN <- n` -/

@[simp] theorem setRawLen_cmd (s : State) (n : Byte) : (s.setRawLen n).cmd = s.cmd := rfl
@[simp] theorem setRawLen_status (s : State) (n : Byte) : (s.setRawLen n).status = s.status := rfl
@[simp] theorem setRawLen_entry (s : State) (n : Byte) : (s.setRawLen n).entry = s.entry := rfl
@[simp] theorem setRawLen_txIdx (s : State) (n : Byte) : (s.setRawLen n).txIdx = s.txIdx := rfl
@[simp] theorem setRawLen_txLen (s : State) (n : Byte) : (s.setRawLen n).txLen = s.txLen := rfl
@[simp] theorem setRawLen_rawLen (s : State) (n : Byte) : (s.setRawLen n).rawLen = n := rfl
@[simp] theorem setRawLen_msgLen (s : State) (n : Byte) : (s.setRawLen n).msgLen = s.msgLen := rfl
@[simp] theorem setRawLen_crc (s : State) (n : Byte) : (s.setRawLen n).crc = s.crc := rfl
@[simp] theorem setRawLen_mem (s : State) (n : Byte) : (s.setRawLen n).mem = s.mem := rfl
@[simp] theorem setRawLen_result (s : State) (n : Byte) : (s.setRawLen n).result = s.result := rfl
@[simp] theorem setRawLen_escCnt (s : State) (n : Byte) : (s.setRawLen n).escCnt = s.escCnt := rfl
@[simp] theorem setRawLen_escBad (s : State) (n : Byte) : (s.setRawLen n).escBad = s.escBad := rfl
@[simp] theorem setRawLen_startMs (s : State) (n : Byte) : (s.setRawLen n).startMs = s.startMs := rfl
@[simp] theorem setRawLen_elapsed (s : State) (n : Byte) : (s.setRawLen n).elapsed = s.elapsed := rfl
@[simp] theorem setRawLen_env (s : State) (n : Byte) : (s.setRawLen n).env = s.env := rfl
@[simp] theorem setRawLen_program (s : State) (n : Byte) : (s.setRawLen n).program = s.program := rfl
@[simp] theorem setRawLen_script (s : State) (n : Byte) : (s.setRawLen n).script = s.script := rfl
@[simp] theorem setRawLen_hostLog (s : State) (n : Byte) : (s.setRawLen n).hostLog = s.hostLog := rfl
@[simp] theorem setRawLen_draws (s : State) (n : Byte) : (s.setRawLen n).draws = s.draws := rfl

/-! `MSG_LEN <- n` -/

@[simp] theorem setMsgLen_cmd (s : State) (n : Byte) : (s.setMsgLen n).cmd = s.cmd := rfl
@[simp] theorem setMsgLen_status (s : State) (n : Byte) : (s.setMsgLen n).status = s.status := rfl
@[simp] theorem setMsgLen_entry (s : State) (n : Byte) : (s.setMsgLen n).entry = s.entry := rfl
@[simp] theorem setMsgLen_txIdx (s : State) (n : Byte) : (s.setMsgLen n).txIdx = s.txIdx := rfl
@[simp] theorem setMsgLen_txLen (s : State) (n : Byte) : (s.setMsgLen n).txLen = s.txLen := rfl
@[simp] theorem setMsgLen_rawLen (s : State) (n : Byte) : (s.setMsgLen n).rawLen = s.rawLen := rfl
@[simp] theorem setMsgLen_msgLen (s : State) (n : Byte) : (s.setMsgLen n).msgLen = n := rfl
@[simp] theorem setMsgLen_crc (s : State) (n : Byte) : (s.setMsgLen n).crc = s.crc := rfl
@[simp] theorem setMsgLen_mem (s : State) (n : Byte) : (s.setMsgLen n).mem = s.mem := rfl
@[simp] theorem setMsgLen_result (s : State) (n : Byte) : (s.setMsgLen n).result = s.result := rfl
@[simp] theorem setMsgLen_escCnt (s : State) (n : Byte) : (s.setMsgLen n).escCnt = s.escCnt := rfl
@[simp] theorem setMsgLen_escBad (s : State) (n : Byte) : (s.setMsgLen n).escBad = s.escBad := rfl
@[simp] theorem setMsgLen_startMs (s : State) (n : Byte) : (s.setMsgLen n).startMs = s.startMs := rfl
@[simp] theorem setMsgLen_elapsed (s : State) (n : Byte) : (s.setMsgLen n).elapsed = s.elapsed := rfl
@[simp] theorem setMsgLen_env (s : State) (n : Byte) : (s.setMsgLen n).env = s.env := rfl
@[simp] theorem setMsgLen_program (s : State) (n : Byte) : (s.setMsgLen n).program = s.program := rfl
@[simp] theorem setMsgLen_script (s : State) (n : Byte) : (s.setMsgLen n).script = s.script := rfl
@[simp] theorem setMsgLen_hostLog (s : State) (n : Byte) : (s.setMsgLen n).hostLog = s.hostLog := rfl
@[simp] theorem setMsgLen_draws (s : State) (n : Byte) : (s.setMsgLen n).draws = s.draws := rfl

/-! `STATUS.SEQ <- 1` -/

@[simp] theorem setSeq_cmd (s : State) : (s.setSeq).cmd = s.cmd := rfl
@[simp] theorem setSeq_status (s : State) : (s.setSeq).status = { s.status with seq := true } := rfl
@[simp] theorem setSeq_entry (s : State) : (s.setSeq).entry = s.entry := rfl
@[simp] theorem setSeq_txIdx (s : State) : (s.setSeq).txIdx = s.txIdx := rfl
@[simp] theorem setSeq_txLen (s : State) : (s.setSeq).txLen = s.txLen := rfl
@[simp] theorem setSeq_rawLen (s : State) : (s.setSeq).rawLen = s.rawLen := rfl
@[simp] theorem setSeq_msgLen (s : State) : (s.setSeq).msgLen = s.msgLen := rfl
@[simp] theorem setSeq_crc (s : State) : (s.setSeq).crc = s.crc := rfl
@[simp] theorem setSeq_mem (s : State) : (s.setSeq).mem = s.mem := rfl
@[simp] theorem setSeq_result (s : State) : (s.setSeq).result = s.result := rfl
@[simp] theorem setSeq_escCnt (s : State) : (s.setSeq).escCnt = s.escCnt := rfl
@[simp] theorem setSeq_escBad (s : State) : (s.setSeq).escBad = s.escBad := rfl
@[simp] theorem setSeq_startMs (s : State) : (s.setSeq).startMs = s.startMs := rfl
@[simp] theorem setSeq_elapsed (s : State) : (s.setSeq).elapsed = s.elapsed := rfl
@[simp] theorem setSeq_env (s : State) : (s.setSeq).env = s.env := rfl
@[simp] theorem setSeq_program (s : State) : (s.setSeq).program = s.program := rfl
@[simp] theorem setSeq_script (s : State) : (s.setSeq).script = s.script := rfl
@[simp] theorem setSeq_hostLog (s : State) : (s.setSeq).hostLog = s.hostLog := rfl
@[simp] theorem setSeq_draws (s : State) : (s.setSeq).draws = s.draws := rfl

/-! BUILD's frame -/

@[simp] theorem putFrame_cmd (s : State) (f : List Byte) : (s.putFrame f).cmd = s.cmd := rfl
@[simp] theorem putFrame_status (s : State) (f : List Byte) : (s.putFrame f).status = s.status := rfl
@[simp] theorem putFrame_entry (s : State) (f : List Byte) : (s.putFrame f).entry = s.entry := rfl
@[simp] theorem putFrame_txIdx (s : State) (f : List Byte) : (s.putFrame f).txIdx = s.indexWithin (BitVec.ofNat 8 f.length) := rfl
@[simp] theorem putFrame_txLen (s : State) (f : List Byte) : (s.putFrame f).txLen = BitVec.ofNat 8 f.length := rfl
@[simp] theorem putFrame_rawLen (s : State) (f : List Byte) : (s.putFrame f).rawLen = s.rawLen := rfl
@[simp] theorem putFrame_msgLen (s : State) (f : List Byte) : (s.putFrame f).msgLen = s.msgLen := rfl
@[simp] theorem putFrame_crc (s : State) (f : List Byte) : (s.putFrame f).crc = s.crc := rfl
@[simp] theorem putFrame_mem (s : State) (f : List Byte) : (s.putFrame f).mem = Memory.writeBytes s.mem txBase f := rfl
@[simp] theorem putFrame_result (s : State) (f : List Byte) : (s.putFrame f).result = s.result := rfl
@[simp] theorem putFrame_escCnt (s : State) (f : List Byte) : (s.putFrame f).escCnt = s.escCnt := rfl
@[simp] theorem putFrame_escBad (s : State) (f : List Byte) : (s.putFrame f).escBad = s.escBad := rfl
@[simp] theorem putFrame_startMs (s : State) (f : List Byte) : (s.putFrame f).startMs = s.startMs := rfl
@[simp] theorem putFrame_elapsed (s : State) (f : List Byte) : (s.putFrame f).elapsed = s.elapsed := rfl
@[simp] theorem putFrame_env (s : State) (f : List Byte) : (s.putFrame f).env = s.env := rfl
@[simp] theorem putFrame_program (s : State) (f : List Byte) : (s.putFrame f).program = s.program := rfl
@[simp] theorem putFrame_script (s : State) (f : List Byte) : (s.putFrame f).script = s.script := rfl
@[simp] theorem putFrame_hostLog (s : State) (f : List Byte) : (s.putFrame f).hostLog = s.hostLog := rfl
@[simp] theorem putFrame_draws (s : State) (f : List Byte) : (s.putFrame f).draws = s.draws + 1 := rfl

/-! a reading -/

@[simp] theorem putReading_cmd (s : State) (r : Reading) : (s.putReading r).cmd = s.cmd := rfl
@[simp] theorem putReading_status (s : State) (r : Reading) : (s.putReading r).status = { s.status with vv := true } := rfl
@[simp] theorem putReading_entry (s : State) (r : Reading) : (s.putReading r).entry = s.entry := rfl
@[simp] theorem putReading_txIdx (s : State) (r : Reading) : (s.putReading r).txIdx = s.txIdx := rfl
@[simp] theorem putReading_txLen (s : State) (r : Reading) : (s.putReading r).txLen = s.txLen := rfl
@[simp] theorem putReading_rawLen (s : State) (r : Reading) : (s.putReading r).rawLen = s.rawLen := rfl
@[simp] theorem putReading_msgLen (s : State) (r : Reading) : (s.putReading r).msgLen = s.msgLen := rfl
@[simp] theorem putReading_crc (s : State) (r : Reading) : (s.putReading r).crc = s.crc := rfl
@[simp] theorem putReading_mem (s : State) (r : Reading) : (s.putReading r).mem = s.mem := rfl
@[simp] theorem putReading_result (s : State) (r : Reading) : (s.putReading r).result = r := rfl
@[simp] theorem putReading_escCnt (s : State) (r : Reading) : (s.putReading r).escCnt = s.escCnt := rfl
@[simp] theorem putReading_escBad (s : State) (r : Reading) : (s.putReading r).escBad = s.escBad := rfl
@[simp] theorem putReading_startMs (s : State) (r : Reading) : (s.putReading r).startMs = s.startMs := rfl
@[simp] theorem putReading_elapsed (s : State) (r : Reading) : (s.putReading r).elapsed = s.elapsed := rfl
@[simp] theorem putReading_env (s : State) (r : Reading) : (s.putReading r).env = s.env := rfl
@[simp] theorem putReading_program (s : State) (r : Reading) : (s.putReading r).program = s.program := rfl
@[simp] theorem putReading_script (s : State) (r : Reading) : (s.putReading r).script = s.script := rfl
@[simp] theorem putReading_hostLog (s : State) (r : Reading) : (s.putReading r).hostLog = s.hostLog := rfl
@[simp] theorem putReading_draws (s : State) (r : Reading) : (s.putReading r).draws = s.draws := rfl

end Sys2Proof.Machine
end

