-- ==== Sys2Proof/Laws/Cells.lean ====
section
/-! SUPPORT. Reading buffer cells: what `cells` lists, when `needCell` and `needCells` go on, and when they fault. -/

namespace Sys2Proof.Machine

@[simp] theorem cells_zero (s : State) (c : Config) (b : Buffer) (i : Nat) : s.cells c b i 0 = [] := rfl

@[simp] theorem cells_succ (s : State) (c : Config) (b : Buffer) (i n : Nat) :
    s.cells c b i (n + 1) = s.cell c b i :: s.cells c b (i + 1) n := rfl

@[simp] theorem cells_length (s : State) (c : Config) (b : Buffer) (i n : Nat) :
    (s.cells c b i n).length = n := by
  induction n generalizing i with
  | zero => rfl
  | succ n ih => simp [ih]

theorem cells_getElem? (s : State) (c : Config) (b : Buffer) (i n k : Nat) (h : k < n) :
    (s.cells c b i n)[k]? = some (s.cell c b (i + k)) := by
  induction n generalizing i k with
  | zero => omega
  | succ n ih =>
    cases k with
    | zero => simp
    | succ k => simpa [Nat.add_assoc, Nat.add_comm 1 k] using ih (i + 1) k (by omega)

/-- Cells depend on the byte storage alone. -/
theorem cell_congr {s t : State} (h : t.mem = s.mem) (c : Config) (b : Buffer) (i : Nat) :
    t.cell c b i = s.cell c b i := by simp [State.cell, h]

theorem cells_congr {s t : State} (h : t.mem = s.mem) (c : Config) (b : Buffer) (i n : Nat) :
    t.cells c b i n = s.cells c b i n := by
  induction n generalizing i with
  | zero => rfl
  | succ n ih => simp [ih, cell_congr h]

/-- A cell that holds a value lies below its buffer's capacity. -/
theorem cell_lt {s : State} {c : Config} {b : Buffer} {i : Nat} {v : Byte} (h : s.cell c b i = some v) :
    i < b.cap c := by
  unfold State.cell at h
  split at h
  · assumption
  · cases h

/-- Bytes held from cell `i` on, one by one. -/
theorem holds_iff (s : State) (b : Buffer) (i : Nat) (bytes : List Byte) :
    s.holds b i bytes ↔ ∀ k, (h : k < bytes.length) → s.cell hw b (i + k) = some bytes[k] := by
  unfold State.holds
  induction bytes generalizing i with
  | nil => simp
  | cons v vs ih =>
    simp only [List.length_cons, cells_succ, List.map_cons, List.cons.injEq, ih]
    constructor
    · rintro ⟨h0, h⟩ k hk
      cases k with
      | zero => simpa using h0
      | succ k => simpa [Nat.add_assoc, Nat.add_comm 1 k] using h k (by omega)
    · intro h
      refine ⟨by simpa using h 0 (Nat.succ_pos _), fun k hk => ?_⟩
      have e : i + 1 + k = i + (k + 1) := by omega
      rw [e, h (k + 1) (Nat.succ_lt_succ hk), List.getElem_cons_succ]

/-- Cells that have all been written hold some bytes. -/
theorem holds_of_written {s : State} {b : Buffer} {n : Nat} (h : s.written b n) :
    ∃ bytes : List Byte, bytes.length = n ∧ s.holds b 0 bytes := by
  induction n with
  | zero => exact ⟨[], rfl, rfl⟩
  | succ n ih =>
    obtain ⟨bytes, hl, hb⟩ := ih fun i hi => h i (by omega)
    obtain ⟨v, hv⟩ := Option.isSome_iff_exists.1 (h n (by omega))
    refine ⟨bytes ++ [v], by simp [hl], (holds_iff ..).2 fun k hk => ?_⟩
    by_cases hkn : k < bytes.length
    · simpa [List.getElem_append_left hkn] using (holds_iff ..).1 hb k hkn
    · have : k = n := by simp at hk; omega
      subst this
      simp [hl, hv]

/-- The four buffers are distinct storage (R273). -/
theorem Buffer.base_lt (b : Buffer) (i j : Nat) (b' : Buffer) (hi : i < b.cap hw) (hj : j < b'.cap hw)
    (h : b.base + i = b'.base + j) : b = b' ∧ i = j := by
  cases b <;> cases b' <;> simp_all [Buffer.base, Buffer.cap, hw, reqBase, txBase, rawBase, msgBase, reqSize] <;> omega

/-- A cell after a store that stays inside its buffer. -/
theorem cell_store {s : State} {b b' : Buffer} {i j : Nat} {bytes : List Byte} (h : i + bytes.length ≤ b.cap hw) :
    (s.store b i bytes).cell hw b' j =
      if b' = b ∧ i ≤ j ∧ j < i + bytes.length then bytes[j - i]? else s.cell hw b' j := by
  unfold State.cell
  by_cases hj : j < b'.cap hw
  · rw [if_pos hj, if_pos hj, store_mem, read_writeBytes]
    by_cases hb : b' = b
    · subst hb
      by_cases h2 : i ≤ j ∧ j < i + bytes.length
      · rw [if_pos (by omega), if_pos ⟨rfl, h2⟩]; congr 1; omega
      · rw [if_neg (by omega), if_neg (by tauto)]
    · rw [if_neg (by
        intro hx
        have := Buffer.base_lt b' j (b'.base + j - b.base) b hj (by omega) (by omega)
        exact hb this.1), if_neg (by tauto)]
  · rw [if_neg hj, if_neg hj, if_neg]
    rintro ⟨rfl, h1, h2⟩
    omega

/-- A store inside a buffer lists only cells that exist. -/
theorem store_mapped {s : State} (h : ∀ x ∈ s.mem, ∃ b : Buffer, ∃ i : Nat, i < b.cap hw ∧ x.1 = b.base + i)
    {b : Buffer} {i : Nat} {bytes : List Byte} (hb : i + bytes.length ≤ b.cap hw) :
    ∀ x ∈ (s.store b i bytes).mem, ∃ b : Buffer, ∃ i : Nat, i < b.cap hw ∧ x.1 = b.base + i := by
  intro x hx
  rcases mem_writeBytes hx with hx | hx
  · exact h x hx
  · exact ⟨b, x.1 - b.base, by omega, by omega⟩

/-- A store inside a buffer leaves written cells written. -/
theorem written_store {s : State} {b b' : Buffer} {i n : Nat} {bytes : List Byte} (hb : i + bytes.length ≤ b.cap hw)
    (h : s.written b' n) : (s.store b i bytes).written b' n := by
  intro k hk
  rw [cell_store hb]
  split
  · rw [List.getElem?_eq_getElem (by omega)]; rfl
  · exact h k hk

/-- Written cells depend on the byte storage alone. -/
theorem written_congr {s t : State} (h : t.mem = s.mem) {b : Buffer} {n : Nat} (hs : s.written b n) :
    t.written b n := by
  intro i hi
  rw [cell_congr h]
  exact hs i hi

/-- A store from cell 0 on leaves the cells it wrote written. -/
theorem written_stored {s : State} {b : Buffer} {bytes : List Byte} (h : bytes.length ≤ b.cap hw) :
    (s.store b 0 bytes).written b bytes.length := by
  intro k hk
  rw [cell_store (by omega), if_pos ⟨rfl, by omega, by omega⟩, List.getElem?_eq_getElem (by omega)]
  rfl

theorem needCell_some {c : Config} {b : Buffer} {i : Nat} {s : State} {v : Byte}
    (h : s.cell c b i = some v) (k : Byte → StepResult) : needCell c b i s k = k v := by
  simp [needCell, h]

theorem needCell_none {c : Config} {b : Buffer} {i : Nat} {s : State}
    (h : s.cell c b i = none) (k : Byte → StepResult) :
    needCell c b i s k = .fault (.unwrittenCell b i) := by
  simp [needCell, h]

/-- A read of written cells goes on with the bytes they hold. -/
theorem needCells_some {c : Config} {b : Buffer} {i n : Nat} {s : State} {bytes : List Byte}
    (h : s.cells c b i n = bytes.map some) (k : List Byte → StepResult) :
    needCells c b i n s k = k bytes := by
  induction n generalizing i bytes k with
  | zero =>
    cases bytes with
    | nil => rfl
    | cons v vs => simp at h
  | succ n ih =>
    cases bytes with
    | nil => simp at h
    | cons v vs =>
      simp only [cells_succ, List.map_cons, List.cons.injEq] at h
      rw [needCells, needCell_some h.1, ih h.2]

/-- A read of cells either goes on with the bytes they hold or faults at one that has not been written. -/
theorem needCells_cases (c : Config) (b : Buffer) (i n : Nat) (s : State) (k : List Byte → StepResult) :
    (∃ bytes : List Byte, s.cells c b i n = bytes.map some ∧ needCells c b i n s k = k bytes) ∨
    (∃ j < n, s.cell c b (i + j) = none ∧ needCells c b i n s k = .fault (.unwrittenCell b (i + j))) := by
  induction n generalizing i k with
  | zero => exact .inl ⟨[], rfl, rfl⟩
  | succ n ih =>
    cases h : s.cell c b i with
    | none => exact .inr ⟨0, by omega, h, by rw [needCells, needCell_none h]; rfl⟩
    | some v =>
      rcases ih (i + 1) (fun vs => k (v :: vs)) with ⟨bytes, hb, hk⟩ | ⟨j, hj, hc, hf⟩
      · exact .inl ⟨v :: bytes, by simp [h, hb], by rw [needCells, needCell_some h, hk]⟩
      · have e : i + 1 + j = i + (j + 1) := by omega
        exact .inr ⟨j + 1, by omega, e ▸ hc, by rw [needCells, needCell_some h, hf, e]⟩

end Sys2Proof.Machine
end

