-- ==== Sys2Proof/Laws/Decode.lean ====
section
/-! SUPPORT. What the decoder reads: the row a command word selects and its OP field (spec 30_encoding.md R84, R85). -/

namespace Sys2Proof

/-- A selected row fixes the OP field (R84). -/
theorem opField_of_selects {r : Row} (hr : r ∈ opcodeTable) {w : Word} (h : r.selects w = true) :
    opField w = opField r.mtch := by
  have hm : opField r.mask = 0xF#4 := by
    simp only [opcodeTable, List.mem_cons, List.not_mem_nil, or_false] at hr
    rcases hr with rfl | rfl | rfl | rfl | rfl | rfl | rfl | rfl | rfl | rfl <;> rfl
  have h' : w &&& r.mask = r.mtch := by simpa [Row.selects] using h
  have := congrArg opField h'
  rw [opField, BitVec.extractLsb'_and] at this
  change opField w &&& opField r.mask = _ at this
  rw [hm] at this
  have e : ∀ x : BitVec 4, x &&& 0xF#4 = x := by decide
  rw [← this, e]

/-- A legal word selects a row, and the row reads the command. -/
theorem decodeWord_row {w : Word} {i : Instr} (h : decodeWord w = .ok i) :
    ∃ r ∈ opcodeTable, r.selects w = true ∧ r.read w = i := by
  unfold decodeWord at h
  split at h
  · rename_i r hf
    cases h
    exact ⟨r, List.mem_of_find?_eq_some hf, by simpa using List.find?_some hf, rfl⟩
  · cases h

namespace Machine

/-- DECODE and READREG, the commands that clear VV at accept (R212). -/
def isDecoder : Instr → Bool
  | .decode _ => true
  | .readreg _ _ => true
  | _ => false

/-- Command accept clears VV for DECODE and READREG and for no other command (R212). -/
theorem clearsVv_of_decode {w : Word} {i : Instr} (h : decodeWord w = .ok i) : clearsVv w = isDecoder i := by
  obtain ⟨r, hr, hs, rfl⟩ := decodeWord_row h
  have ho := opField_of_selects hr hs
  unfold clearsVv
  rw [ho]
  simp only [opcodeTable, List.mem_cons, List.not_mem_nil, or_false] at hr
  rcases hr with rfl | rfl | rfl | rfl | rfl | rfl | rfl | rfl | rfl | rfl <;> rfl

end Machine

end Sys2Proof
end

