-- ==== Sys2Proof/Laws/Frame.lean ====
section
/-! SUPPORT. The lengths of requests and frames (spec 41_frame_encode.md R121, R124). -/

namespace Sys2Proof.Machine

@[simp] theorem request_length (addr : Byte) (reg : Half) : (request addr reg).length = 7 := rfl
theorem stuff_length_le (b : Byte) : (stuff b).length ≤ 2 := by unfold stuff; split <;> simp
theorem stuffAll_length_le (m : List Byte) : (stuffAll m).length ≤ 2 * m.length := by
  induction m with
  | nil => simp [stuffAll]
  | cons b bs ih =>
    have := stuff_length_le b
    simp only [stuffAll, List.flatMap_cons, List.length_append, List.length_cons] at *
    omega
theorem frame_length (m : List Byte) : (frame m).length = 2 + (stuffAll m).length := by
  simp [frame]; omega
theorem frame_fits (addr : Byte) (reg : Half) : (frame (request addr reg)).length ≤ 16 := by
  have := stuffAll_length_le (request addr reg)
  rw [request_length] at this
  rw [frame_length]; omega


end Sys2Proof.Machine
end

