-- ==== Sys2Proof/Laws/Phases.lean ====
section
/-! SUPPORT. One lemma per phase that says everything a step of it can do: the provers cite these instead of unfolding the phases. -/

namespace Sys2Proof.Machine

/-- `phase_done()` completes, or a READREG enters the phase that follows (R214). -/
theorem phaseDone_cases (s : State) :
    (s.status.seq = false ∧ s.phaseDone = s.complete) ∨
    (∃ p, s.status.seq = true ∧ s.status.phase.following = some p ∧ s.phaseDone = s.enterPhase p) ∨
    (s.status.seq = true ∧ s.status.phase.following = none ∧ s.phaseDone = s.complete) := by
  unfold State.phaseDone
  cases h : s.status.seq with
  | false => exact .inl ⟨rfl, rfl⟩
  | true =>
    cases hp : s.status.phase.following with
    | none => exact .inr (.inr ⟨rfl, rfl, rfl⟩)
    | some p => exact .inr (.inl ⟨p, rfl, rfl, rfl⟩)

theorem phaseDone_of_not_seq {s : State} (h : s.status.seq = false) : s.phaseDone = s.complete := by
  simp [State.phaseDone, h]

theorem phaseDone_of_seq {s : State} {p : Phase} (h : s.status.seq = true)
    (hp : s.status.phase.following = some p) : s.phaseDone = s.enterPhase p := by
  simp [State.phaseDone, h, hp]

@[simp] theorem phaseDone_vv (s : State) : s.phaseDone.status.vv = s.status.vv := by
  rcases phaseDone_cases s with ⟨_, e⟩ | ⟨_, _, _, e⟩ | ⟨_, _, e⟩ <;> rw [e] <;> rfl

@[simp] theorem phaseDone_escw (s : State) : s.phaseDone.status.escw = s.status.escw := by
  rcases phaseDone_cases s with ⟨_, e⟩ | ⟨_, _, _, e⟩ | ⟨_, _, e⟩ <;> rw [e] <;> rfl

@[simp] theorem phaseDone_rej (s : State) : s.phaseDone.status.rej = s.status.rej := by
  rcases phaseDone_cases s with ⟨_, e⟩ | ⟨_, _, _, e⟩ | ⟨_, _, e⟩ <;> rw [e] <;> rfl

/-- The BUILD phase: the frame does not fit, or it is stored (R125). -/
theorem buildPhase_cases (c : Config) (addr : Byte) (reg : Half) (s : State) :
    (c.txCap < (frame (request addr reg)).length ∧
      buildPhase c addr reg s = (s.putRequest addr reg).raise .capacityExceeded 1) ∨
    ((frame (request addr reg)).length ≤ c.txCap ∧
      buildPhase c addr reg s =
        ((s.putRequest addr reg).putFrame (frame (request addr reg))).phaseDone) := by
  unfold buildPhase
  by_cases h : c.txCap < (frame (request addr reg)).length
  · exact .inl ⟨h, by simp only [if_pos h]⟩
  · exact .inr ⟨by omega, by simp only [if_neg h]⟩

@[simp] theorem sendEntry_entry (s : State) : s.sendEntry.entry = false := by
  unfold State.sendEntry
  cases h : s.entry <;> simp [h]

@[simp] theorem sendEntry_txIdx (s : State) :
    s.sendEntry.txIdx = if s.entry then 0 else s.txIdx := by
  unfold State.sendEntry
  cases h : s.entry <;> simp

/-- The entry of a SEND phase touches PHASE, ENTRY and TX_IDX only. -/
theorem sendEntry_eq (s : State) :
    s.sendEntry = { s.setPhase .send with entry := false, txIdx := if s.entry then 0 else s.txIdx } := by
  unfold State.sendEntry
  cases h : s.entry
  · simp only [Bool.false_eq_true, if_false, State.setPhase]
    cases s
    simp_all
  · simp

@[simp] theorem sendEntry_cmd (s : State) : s.sendEntry.cmd = s.cmd := by rw [sendEntry_eq]; rfl
@[simp] theorem sendEntry_txLen (s : State) : s.sendEntry.txLen = s.txLen := by rw [sendEntry_eq]; rfl
@[simp] theorem sendEntry_rawLen (s : State) : s.sendEntry.rawLen = s.rawLen := by rw [sendEntry_eq]; rfl
@[simp] theorem sendEntry_msgLen (s : State) : s.sendEntry.msgLen = s.msgLen := by rw [sendEntry_eq]; rfl
@[simp] theorem sendEntry_crc (s : State) : s.sendEntry.crc = s.crc := by rw [sendEntry_eq]; rfl
@[simp] theorem sendEntry_mem (s : State) : s.sendEntry.mem = s.mem := by rw [sendEntry_eq]; rfl
@[simp] theorem sendEntry_result (s : State) : s.sendEntry.result = s.result := by rw [sendEntry_eq]; rfl
@[simp] theorem sendEntry_escCnt (s : State) : s.sendEntry.escCnt = s.escCnt := by rw [sendEntry_eq]; rfl
@[simp] theorem sendEntry_escBad (s : State) : s.sendEntry.escBad = s.escBad := by rw [sendEntry_eq]; rfl
@[simp] theorem sendEntry_startMs (s : State) : s.sendEntry.startMs = s.startMs := by rw [sendEntry_eq]; rfl
@[simp] theorem sendEntry_elapsed (s : State) : s.sendEntry.elapsed = s.elapsed := by rw [sendEntry_eq]; rfl
@[simp] theorem sendEntry_env (s : State) : s.sendEntry.env = s.env := by rw [sendEntry_eq]; rfl
@[simp] theorem sendEntry_script (s : State) : s.sendEntry.script = s.script := by rw [sendEntry_eq]; rfl
@[simp] theorem sendEntry_program (s : State) : s.sendEntry.program = s.program := by rw [sendEntry_eq]; rfl
@[simp] theorem sendEntry_hostLog (s : State) : s.sendEntry.hostLog = s.hostLog := by rw [sendEntry_eq]; rfl
@[simp] theorem sendEntry_draws (s : State) : s.sendEntry.draws = s.draws := by rw [sendEntry_eq]; rfl
@[simp] theorem sendEntry_status (s : State) : s.sendEntry.status = { s.status with phase := .send } := by
  rw [sendEntry_eq]; rfl

/-- After a byte left, the phase ends or stays (R127). -/
theorem afterEmit_cases (s : State) :
    (s.txIdx = s.txLen ∧ s.afterEmit = s.phaseDone) ∨ (s.txIdx ≠ s.txLen ∧ s.afterEmit = s) := by
  unfold State.afterEmit
  by_cases h : s.txIdx = s.txLen
  · exact .inl ⟨h, if_pos h⟩
  · exact .inr ⟨h, if_neg h⟩

/-- A SEND step ends the phase, waits for the peer, sends one byte, or faults at an unwritten cell (R127). -/
theorem sendStep_cases (c : Config) (s : State) :
    (s.sendEntry.txIdx = s.txLen ∧ sendStep c s = .next s.sendEntry.phaseDone) ∨
    (s.sendEntry.txIdx ≠ s.txLen ∧ s.env.txReady = false ∧ sendStep c s = .next s.sendEntry) ∨
    (∃ b, s.sendEntry.txIdx ≠ s.txLen ∧ s.env.txReady = true ∧
      s.cell c .tx s.sendEntry.txIdx.toNat = some b ∧
      sendStep c s = .next (s.sendEntry.emit b).afterEmit) ∨
    (s.sendEntry.txIdx ≠ s.txLen ∧ s.env.txReady = true ∧
      s.cell c .tx s.sendEntry.txIdx.toNat = none ∧
      sendStep c s = .fault (.unwrittenCell .tx s.sendEntry.txIdx.toNat)) := by
  have hl : s.sendEntry.txLen = s.txLen := by rw [sendEntry_eq]; rfl
  have he : s.sendEntry.env = s.env := by rw [sendEntry_eq]; rfl
  have hm : s.sendEntry.mem = s.mem := by rw [sendEntry_eq]; rfl
  unfold sendStep
  simp only [hl, he]
  by_cases h : s.sendEntry.txIdx = s.txLen
  · exact .inl ⟨h, by rw [if_pos h]⟩
  · cases hr : s.env.txReady with
    | false => exact .inr (.inl ⟨h, rfl, by rw [if_neg h]; simp⟩)
    | true =>
      cases hc : s.cell c .tx s.sendEntry.txIdx.toNat with
      | none =>
        refine .inr (.inr (.inr ⟨h, rfl, rfl, ?_⟩))
        rw [if_neg h, if_pos rfl, needCell_none (by rw [cell_congr hm, hc])]
      | some b =>
        refine .inr (.inr (.inl ⟨b, h, rfl, rfl, ?_⟩))
        rw [if_neg h, if_pos rfl, needCell_some (by rw [cell_congr hm, hc])]

/-- An RX_WAIT step times out, finds no byte, drops a 0x40, overflows, or appends a byte and ends at 0x0d (R142 to R147). -/
theorem rxWait_cases (c : Config) (s : State) :
    (c.timeoutMs < (s.sinceStart c).toNat ∧ rxWait c s = (s.waited c).raise .timeout 0) ∨
    ((s.sinceStart c).toNat ≤ c.timeoutMs ∧ s.env.rxQueue = [] ∧ rxWait c s = s.waited c) ∨
    (∃ rest, (s.sinceStart c).toNat ≤ c.timeoutMs ∧ s.env.rxQueue = startByte :: rest ∧
      rxWait c s = (s.waited c).popped rest) ∨
    (∃ b rest, (s.sinceStart c).toNat ≤ c.timeoutMs ∧ s.env.rxQueue = b :: rest ∧ b ≠ startByte ∧
      c.rawCap ≤ s.rawLen.toNat ∧ rxWait c s = ((s.waited c).popped rest).raise .capacityExceeded 2) ∨
    (∃ b rest, (s.sinceStart c).toNat ≤ c.timeoutMs ∧ s.env.rxQueue = b :: rest ∧ b ≠ startByte ∧
      s.rawLen.toNat < c.rawCap ∧
      rxWait c s = if b = termByte then (((s.waited c).popped rest).appended b).phaseDone
        else ((s.waited c).popped rest).appended b) := by
  unfold rxWait
  by_cases ht : c.timeoutMs < (s.sinceStart c).toNat
  · exact .inl ⟨ht, if_pos ht⟩
  rw [if_neg ht]
  have ht' : (s.sinceStart c).toNat ≤ c.timeoutMs := by omega
  have hq : (s.waited c).env.rxQueue = s.env.rxQueue := rfl
  unfold takeByte
  rw [hq]
  cases s.env.rxQueue with
  | nil => exact .inr (.inl ⟨ht', rfl, rfl⟩)
  | cons b rest =>
    by_cases hb : b = startByte
    · exact .inr (.inr (.inl ⟨rest, ht', by rw [hb], if_pos hb⟩))
    · have e : appendRaw c b ((s.waited c).popped rest) = if c.rawCap ≤ s.rawLen.toNat
          then ((s.waited c).popped rest).raise .capacityExceeded 2
          else if b = termByte then (((s.waited c).popped rest).appended b).phaseDone
            else ((s.waited c).popped rest).appended b := rfl
      by_cases hc : c.rawCap ≤ s.rawLen.toNat
      · exact .inr (.inr (.inr (.inl ⟨b, rest, ht', rfl, hb, hc, by
          simp only [if_neg hb, e, if_pos hc]⟩)))
      · exact .inr (.inr (.inr (.inr ⟨b, rest, ht', rfl, hb, by omega, by
          simp only [if_neg hb, e, if_neg hc]⟩)))

/-- UNSTUFF: the pass reads an unwritten cell, overflows, or ends and meets the CRC check (R167). -/
theorem unstuffPhase_cases (c : Config) (s : State) :
    (∃ i, unstuffPass c.msgCap 0 (s.cells c .raw 0 s.rawLen.toNat) .start = .unwritten i ∧
      unstuffPhase c s = .fault (.unwrittenCell .raw i)) ∨
    (∃ p, unstuffPass c.msgCap 0 (s.cells c .raw 0 s.rawLen.toNat) .start = .overflow p ∧
      unstuffPhase c s = .next (((s.setPhase .unstuff).keepPass p).raise .capacityExceeded 3)) ∨
    (∃ p, unstuffPass c.msgCap 0 (s.cells c .raw 0 s.rawLen.toNat) .start = .done p ∧
      unstuffPhase c s = .next (((s.setPhase .unstuff).keepPass p).checkCrc p.msg)) := by
  unfold unstuffPhase
  have h : (s.setPhase .unstuff).cells c .raw 0 (s.setPhase .unstuff).rawLen.toNat =
      s.cells c .raw 0 s.rawLen.toNat := cells_congr (s := s) (t := s.setPhase .unstuff) rfl ..
  simp only [h]
  cases unstuffPass c.msgCap 0 (s.cells c .raw 0 s.rawLen.toNat) .start with
  | unwritten i => exact .inl ⟨i, rfl, rfl⟩
  | overflow p => exact .inr (.inl ⟨p, rfl, rfl⟩)
  | done p => exact .inr (.inr ⟨p, rfl, rfl⟩)

/-- The CRC check fails, or the message is accepted (R166). -/
theorem checkCrc_cases (s : State) (msg : List Byte) :
    (crc16 msg ≠ 0 ∧ s.checkCrc msg = (s.setCrc (crc16 msg)).raise .crcError 0) ∨
    (crc16 msg = 0 ∧
      s.checkCrc msg = ((s.setCrc 0).setMsgLen (BitVec.ofNat 8 msg.length)).phaseDone) := by
  unfold State.checkCrc
  by_cases h : crc16 msg = 0
  · exact .inr ⟨h, by simp [h]⟩
  · exact .inl ⟨h, if_neg h⟩

/-- `note_bad` counts at most one and writes no message byte. -/
theorem note_cnt (p : Pass) (v : Byte) (h : p.cnt.toNat < 255) : (p.note v).cnt.toNat ≤ p.cnt.toNat + 1 := by
  unfold Pass.note
  split
  · omega
  · have : (p.cnt + 1).toNat = (p.cnt.toNat + 1) % 256 := by simp [BitVec.toNat_add]
    show (p.cnt + 1).toNat ≤ _
    omega

@[simp] theorem note_msg (p : Pass) (v : Byte) : (p.note v).msg = p.msg := by
  unfold Pass.note
  split <;> rfl

@[simp] theorem put_msg (p : Pass) (v : Byte) : (p.put v).msg = p.msg ++ [v] := rfl

@[simp] theorem put_cnt (p : Pass) (v : Byte) : (p.put v).cnt = p.cnt := rfl

/-- The message bytes a pass holds never pass the capacity, and its count of malformed escapes is at most half the raw cells (R35, R44). -/
theorem unstuffPass_bounds (cap i : Nat) (cells : List (Option Byte)) (p q : Pass)
    (hp : p.msg.length ≤ cap) (hc : 2 * p.cnt.toNat + cells.length < 256)
    (h : unstuffPass cap i cells p = .done q ∨ unstuffPass cap i cells p = .overflow q) :
    q.msg.length ≤ cap ∧ 2 * q.cnt.toNat ≤ 2 * p.cnt.toNat + cells.length := by
  induction i, cells, p using unstuffPass.induct cap with
  | case1 i p => simp_all [unstuffPass]
  | case2 i x p =>
    simp only [unstuffPass, PassEnd.done.injEq, reduceCtorEq, or_false] at h
    subst h
    exact ⟨hp, by omega⟩
  | case3 i x y p => simp [unstuffPass] at h
  | case4 i rest p => simp [unstuffPass] at h
  | case5 i rest p y v hlt ih =>
    simp only [List.length_cons] at hc
    have hn := note_cnt p v (by omega)
    rw [note_msg] at hlt
    have := ih (by simpa using hlt) (by rw [put_cnt]; omega) (by simpa [unstuffPass, hlt] using h)
    rw [put_cnt] at this
    simp only [List.length_cons]
    exact ⟨this.1, by omega⟩
  | case6 i rest p y v hlt =>
    simp only [List.length_cons] at hc
    have hn := note_cnt p v (by omega)
    rw [note_msg] at hlt
    have e : p.note v = q := by simpa [unstuffPass, hlt] using h
    subst e
    simp only [List.length_cons]
    exact ⟨by simpa using hp, by omega⟩
  | case7 i b next rest p hb hlt ih =>
    have := ih (by simpa using hlt) (by simp only [put_cnt, List.length_cons] at hc ⊢; omega)
      (by simpa [unstuffPass, hb, hlt] using h)
    simp only [put_cnt, List.length_cons] at this ⊢
    exact ⟨this.1, by omega⟩
  | case8 i b next rest p hb hlt =>
    have e : p = q := by simpa [unstuffPass, hb, hlt] using h
    subst e
    exact ⟨hp, by omega⟩

/-- A pass that stops at an unwritten cell stops at one of the raw cells it was given. -/
theorem unstuffPass_unwritten (cap i k : Nat) (cells : List (Option Byte)) (p : Pass)
    (h : unstuffPass cap i cells p = .unwritten k) : i ≤ k ∧ cells[k - i]? = some none := by
  induction i, cells, p using unstuffPass.induct cap with
  | case1 i p => simp [unstuffPass] at h
  | case2 i x p => simp [unstuffPass] at h
  | case3 i x y p =>
    have e : i = k := by simpa [unstuffPass] using h
    simp [e]
  | case4 i rest p =>
    have e : i + 1 = k := by simpa [unstuffPass] using h
    simp [← e]
  | case5 i rest p y v hlt ih =>
    rw [note_msg] at hlt
    obtain ⟨h1, h2⟩ := ih (by simpa [unstuffPass, hlt] using h)
    refine ⟨by omega, ?_⟩
    rw [show k - i = (k - (i + 2)) + 1 + 1 by omega]
    simpa using h2
  | case6 i rest p y v hlt =>
    rw [note_msg] at hlt
    simp [unstuffPass, hlt] at h
  | case7 i b next rest p hb hlt ih =>
    obtain ⟨h1, h2⟩ := ih (by simpa [unstuffPass, hb, hlt] using h)
    refine ⟨by omega, ?_⟩
    rw [show k - i = (k - (i + 1)) + 1 by omega]
    simpa using h2
  | case8 i b next rest p hb hlt => simp [unstuffPass, hb, hlt] at h

/-- A DECODE phase raises one of its errors, writes a reading, or faults at an unwritten message cell (R192). -/
theorem decodePhase_cases (c : Config) (reg : Half) (s : State) :
    (∃ e n, errorRecord e n .decode = true ∧ e ≠ .ok ∧
      decodePhase c reg s = .next ((s.setPhase .decode).raise e n)) ∨
    (∃ n se bytes, decodePhase c reg s = .next ((s.setPhase .decode).putReading (reading c n se bytes)).phaseDone) ∨
    (∃ i, i < s.msgLen.toNat ∧ s.cell c .msg i = none ∧ decodePhase c reg s = .fault (.unwrittenCell .msg i)) := by
  have hc : ∀ i, s.cell c .msg i = (s.setPhase .decode).cell c .msg i := fun i => cell_congr rfl ..
  have hl : s.msgLen = (s.setPhase .decode).msgLen := rfl
  unfold decodePhase
  simp only [hc, hl]
  generalize s.setPhase .decode = r
  by_cases h2 : r.msgLen.toNat < 2
  · exact .inl ⟨.malformedLength, 1, rfl, by decide, by rw [if_pos h2]⟩
  rw [if_neg h2]
  cases h0 : r.cell c .msg 0 with
  | none => exact .inr (.inr ⟨0, by omega, h0, needCell_none h0 _⟩)
  | some b0 =>
  rw [needCell_some h0]
  cases h1 : r.cell c .msg 1 with
  | none => exact .inr (.inr ⟨1, by omega, h1, needCell_none h1 _⟩)
  | some b1 =>
  rw [needCell_some h1]
  by_cases hh : b0 ≠ rspAddr ∨ b1 ≠ rspCmd
  · exact .inl ⟨.malformedHeader, 0, rfl, by decide, by rw [if_pos hh]⟩
  rw [if_neg hh]
  unfold decodeRegister
  by_cases h4 : r.msgLen.toNat < 4
  · exact .inl ⟨.malformedLength, 2, rfl, by decide, by rw [if_pos h4]⟩
  rw [if_neg h4]
  cases h2' : r.cell c .msg 2 with
  | none => exact .inr (.inr ⟨2, by omega, h2', needCell_none h2' _⟩)
  | some hi =>
  rw [needCell_some h2']
  cases h3 : r.cell c .msg 3 with
  | none => exact .inr (.inr ⟨3, by omega, h3, needCell_none h3 _⟩)
  | some lo =>
  rw [needCell_some h3]
  by_cases hr : half hi lo ≠ reg
  · exact .inl ⟨.registerMismatch, 0, rfl, by decide, by rw [if_pos hr]⟩
  rw [if_neg hr]
  unfold decodeNumber
  by_cases h7 : r.msgLen.toNat < 7
  · exact .inl ⟨.malformedLength, 3, rfl, by decide, by rw [if_pos h7]⟩
  rw [if_neg h7]
  cases h5 : r.cell c .msg 5 with
  | none => exact .inr (.inr ⟨5, by omega, h5, needCell_none h5 _⟩)
  | some n =>
  rw [needCell_some h5]
  by_cases hn : r.msgLen.toNat < mantOff + n.toNat
  · exact .inl ⟨.malformedLength, 4, rfl, by decide, by rw [if_pos hn]⟩
  rw [if_neg hn]
  cases h6 : r.cell c .msg 6 with
  | none => exact .inr (.inr ⟨6, by omega, h6, needCell_none h6 _⟩)
  | some se =>
  rw [needCell_some h6]
  rcases needCells_cases c .msg mantOff n.toNat r
      (fun bytes => .next (r.putReading (reading c n se bytes)).phaseDone) with
    ⟨bytes, _, hk⟩ | ⟨j, hj, hn', hf⟩
  · exact .inr (.inl ⟨n, se, bytes, hk⟩)
  · exact .inr (.inr ⟨mantOff + j, by omega, hn', hf⟩)

/-- CRCMSG computes, or faults at an unwritten message cell (R109). -/
theorem crcMsgPhase_cases (c : Config) (s : State) :
    (∃ bytes : List Byte, s.cells c .msg 0 s.msgLen.toNat = bytes.map some ∧
      crcMsgPhase c s = .next ((s.setPhase .crc).setCrc (crc16 bytes)).complete) ∨
    (∃ i < s.msgLen.toNat, s.cell c .msg i = none ∧ crcMsgPhase c s = .fault (.unwrittenCell .msg i)) := by
  rcases needCells_cases c .msg 0 s.msgLen.toNat s
      (fun bytes => .next ((s.setPhase .crc).setCrc (crc16 bytes)).complete) with h | ⟨j, hj, hc, hf⟩
  · exact .inl h
  · exact .inr ⟨j, hj, by simpa using hc, by simpa [crcMsgPhase] using hf⟩

end Sys2Proof.Machine
end

