-- ==== Sys2Proof/Laws/Buffers.lean ====
section
/-! SUPPORT. What buffers hold after the stores the phases make, and which bytes of storage they leave alone. -/

namespace Sys2Proof.Machine

/-- Bytes held depend on the byte storage alone. -/
theorem holds_congr {s t : State} (h : t.mem = s.mem) {b : Buffer} {i : Nat} {bytes : List Byte} :
    t.holds b i bytes ↔ s.holds b i bytes := by
  unfold State.holds
  rw [cells_congr h]

/-- Held cells have been written. -/
theorem written_of_holds {s : State} {b : Buffer} {bytes : List Byte} (h : s.holds b 0 bytes) :
    s.written b bytes.length := by
  intro k hk
  have := (holds_iff ..).1 h k hk
  rw [Nat.zero_add] at this
  rw [this]
  rfl

/-- A store inside a buffer is held. -/
theorem holds_store {s : State} {b : Buffer} {i : Nat} {bytes : List Byte} (h : i + bytes.length ≤ b.cap hw) :
    (s.store b i bytes).holds b i bytes := by
  rw [holds_iff]
  intro k hk
  rw [cell_store h, if_pos ⟨rfl, by omega, by omega⟩, Nat.add_sub_cancel_left, List.getElem?_eq_getElem hk]

/-- A store into one buffer leaves what another buffer holds. -/
theorem holds_store_other {s : State} {b b' : Buffer} {i j : Nat} {bytes old : List Byte} (hb : b' ≠ b)
    (h : i + bytes.length ≤ b.cap hw) (ho : s.holds b' j old) : (s.store b i bytes).holds b' j old := by
  rw [holds_iff] at *
  intro k hk
  rw [cell_store h, if_neg (by tauto)]
  exact ho k hk

/-- A store after held bytes extends them. -/
theorem holds_append {s : State} {b : Buffer} {i : Nat} {old bytes : List Byte}
    (h : i + old.length + bytes.length ≤ b.cap hw) (ho : s.holds b i old) :
    (s.store b (i + old.length) bytes).holds b i (old ++ bytes) := by
  rw [holds_iff] at *
  intro k hk
  rw [List.length_append] at hk
  rw [cell_store h]
  by_cases hk' : k < old.length
  · rw [if_neg (by omega), List.getElem_append_left hk']
    exact ho k hk'
  · rw [if_pos ⟨rfl, by omega, by omega⟩, List.getElem_append_right (by omega),
      ← List.getElem?_eq_getElem (l := bytes) (i := k - old.length) (by omega)]
    congr 1
    omega

/-- A store leaves every byte outside it. -/
theorem sameOutside_store (s : State) (b : Buffer) (i : Nat) (bytes : List Byte) :
    sameOutside s (s.store b i bytes) (b.base + i) bytes.length :=
  fun _ hx => read_writeBytes_outside _ _ hx

/-- BUILD leaves the request in REQ (R125). -/
theorem holds_putRequest (s : State) (addr : Byte) (reg : Half) :
    (s.putRequest addr reg).holds .req 0 (request addr reg) :=
  (holds_congr (s := s.store .req 0 (request addr reg)) rfl).2 (holds_store (by decide : 0 + 7 ≤ _))

/-- BUILD writes no other byte before the frame is stored (R125). -/
theorem putRequest_outside (s : State) (addr : Byte) (reg : Half) :
    sameOutside s (s.putRequest addr reg) 0x10 7 := sameOutside_store s .req 0 (request addr reg)

/-- A frame that fits is held in TXBUF, and REQ keeps what it held (R125). -/
theorem holds_putFrame {s : State} {f r : List Byte} (hf : f.length ≤ hw.txCap) (hr : s.holds .req 0 r) :
    (s.putFrame f).holds .tx 0 f ∧ (s.putFrame f).holds .req 0 r := by
  have hc : 0 + f.length ≤ Buffer.cap hw .tx := (Nat.zero_add _).symm ▸ hf
  have hm : (s.putFrame f).mem = (s.store .tx 0 f).mem := rfl
  exact ⟨(holds_congr hm).2 (holds_store hc), (holds_congr hm).2 (holds_store_other (by decide) hc hr)⟩

/-- Storing a frame writes its bytes only. -/
theorem putFrame_outside (s : State) (f : List Byte) : sameOutside s (s.putFrame f) 0x40 f.length :=
  sameOutside_store s .tx 0 f

/-- The bytes a pass wrote are held in MSG (R161). -/
theorem holds_keepPass {s : State} {p : Pass} (h : p.msg.length ≤ hw.msgCap) :
    (s.keepPass p).holds .msg 0 p.msg := by
  have hm : (s.keepPass p).mem = (s.store .msg 0 p.msg).mem := rfl
  exact (holds_congr hm).2 (holds_store ((Nat.zero_add _).symm ▸ h))

/-- Keeping a pass writes the message bytes only. -/
theorem keepPass_outside (s : State) (p : Pass) : sameOutside s (s.keepPass p) 0xC0 p.msg.length :=
  sameOutside_store s .msg 0 p.msg

end Sys2Proof.Machine
end

