-- ==== Sys2Proof/Laws/Invariants.lean ====
section
/-! SUPPORT. What each phase keeps of the two invariants of Safety.lean: the provers build the invariants of a step from these. -/

namespace Sys2Proof.Machine

/-- The part of the state DataInv speaks of. -/
theorem State.DataInv.congr {s t : State} (h : s.DataInv) (hm : t.mem = s.mem) (h1 : t.txLen = s.txLen)
    (h2 : t.txIdx = s.txIdx) (h3 : t.rawLen = s.rawLen) (h4 : t.msgLen = s.msgLen)
    (h5 : t.result.exp = s.result.exp) (h6 : t.escCnt = s.escCnt) : t.DataInv := by
  obtain ⟨a, b, c, d, e, f, g, i, j⟩ := h
  refine ⟨hm ▸ a, hm ▸ b, h1 ▸ c, h1 ▸ h2 ▸ d, h3 ▸ e, h4 ▸ f, h5 ▸ g, h6 ▸ i, ?_⟩
  intro k hk
  rw [cell_congr hm]
  exact j k (h1 ▸ hk)

/-- PHASE is no part of the bounds. -/
theorem State.DataInv.setPhase {s : State} (h : s.DataInv) (p : Phase) : (s.setPhase p).DataInv :=
  h.congr rfl rfl rfl rfl rfl rfl rfl

/-- An error only shortens a length (R233). -/
theorem State.DataInv.raise {s : State} (h : s.DataInv) (e : ErrorKind) (n : BitVec 4) : (s.raise e n).DataInv := by
  obtain ⟨a, b, c, d, e', f, g, i, j⟩ := h
  refine ⟨by simpa using a, by simpa using b, ?_, ?_, ?_, ?_, by simpa using g, by simpa using i, ?_⟩
  · simp only [raise_txLen]; split <;> simp_all
  · simp only [raise_txLen, raise_txIdx]; split <;> simp_all
  · simp only [raise_rawLen]; split <;> simp_all
  · simp only [raise_msgLen]; split <;> simp_all
  · intro k hk
    rw [cell_congr (s := s) (by simp)]
    apply j
    simp only [raise_txLen] at hk
    split at hk <;> simp_all

/-- The end of a phase touches no bounded register (R214). -/
theorem State.DataInv.phaseDone {s : State} (h : s.DataInv) : s.phaseDone.DataInv :=
  h.congr (by simp) (by simp) (by simp) (by simp) (by simp) (by simp) (by simp)

/-- Completion touches no bounded register (R16). -/
theorem State.DataInv.complete {s : State} (h : s.DataInv) : s.complete.DataInv :=
  h.congr rfl rfl rfl rfl rfl rfl rfl

/-- The BUILD phase keeps the bounds (R125). -/
theorem State.DataInv.buildPhase_inv {s : State} (h : s.DataInv) (addr : Byte) (reg : Half) :
    (buildPhase hw addr reg s).DataInv := by
  have hr : (s.putRequest addr reg).DataInv := by
    have hm : (s.putRequest addr reg).mem = (s.store .req 0 (request addr reg)).mem := rfl
    obtain ⟨a, b, c, d, e', f, g, i, j⟩ := h
    have hcap : 0 + (request addr reg).length ≤ Buffer.cap hw .req := by rw [request_length]; decide
    refine ⟨wf_writeBytes _ _ _ a, store_mapped b hcap, c, d, e', f, g, i, ?_⟩
    intro k hk
    rw [cell_congr hm]
    exact written_store hcap j k hk
  have hf := frame_fits addr reg
  rcases buildPhase_cases hw addr reg s with ⟨hl, e⟩ | ⟨hl, e⟩
  · rw [e]; exact hr.raise _ _
  · rw [e]
    apply State.DataInv.phaseDone
    have hcap : 0 + (frame (request addr reg)).length ≤ Buffer.cap hw .tx := by simpa [Buffer.cap] using hl
    have hn : (BitVec.ofNat 8 (frame (request addr reg)).length).toNat = (frame (request addr reg)).length := by
      simp; omega
    obtain ⟨a, b, c, d, e', f, g, i, j⟩ := hr
    refine ⟨wf_writeBytes _ _ _ a, store_mapped b hcap, ?_, indexWithin_le _ _, e', f, g, i, ?_⟩
    · show (BitVec.ofNat 8 _).toNat ≤ _; rw [hn]; exact hl
    · intro k hk
      have hk' : k < (frame (request addr reg)).length := by rw [← hn]; exact hk
      show (((s.putRequest addr reg).store .tx 0 (frame (request addr reg))).cell hw .tx k).isSome = true
      rw [cell_store hcap,
        if_pos ⟨rfl, by omega, by omega⟩, List.getElem?_eq_getElem (by omega)]
      rfl

/-- The entry of SEND keeps the bounds. -/
theorem State.DataInv.sendEntry {s : State} (h : s.DataInv) : s.sendEntry.DataInv := by
  rw [sendEntry_eq]
  obtain ⟨a, b, c, d, e', f, g, i, j⟩ := h
  refine ⟨a, b, c, ?_, e', f, g, i, j⟩
  show (if s.entry then (0 : Byte) else s.txIdx).toNat ≤ _
  split
  · simp
  · exact d

/-- The end of a SEND step keeps the bounds. -/
theorem State.DataInv.afterEmit {s : State} (h : s.DataInv) : s.afterEmit.DataInv := by
  unfold State.afterEmit; split
  · exact h.phaseDone
  · exact h

/-- A SEND step keeps the bounds (R127). -/
theorem State.DataInv.sendStep_inv {s t : State} (h : s.DataInv) (e : sendStep hw s = .next t) : t.DataInv := by
  rcases sendStep_cases hw s with ⟨_, e'⟩ | ⟨_, _, e'⟩ | ⟨b, hne, _, _, e'⟩ | ⟨_, _, _, e'⟩ <;> rw [e'] at e <;> cases e
  · exact h.sendEntry.phaseDone
  · exact h.sendEntry
  · apply State.DataInv.afterEmit
    obtain ⟨a, b, c, d, e', f, g, i, j⟩ := h.sendEntry
    refine ⟨a, b, c, ?_, e', f, g, i, j⟩
    have hne' : s.sendEntry.txIdx.toNat ≠ s.sendEntry.txLen.toNat := by
      rw [sendEntry_txLen]; exact fun x => hne (BitVec.eq_of_toNat_eq x)
    show (s.sendEntry.txIdx + 1).toNat ≤ s.sendEntry.txLen.toNat
    rw [BitVec.toNat_add, show (1 : Byte).toNat = 1 from rfl]
    omega

/-- A RECV step keeps the bounds (R141, R142). -/
theorem State.DataInv.recvStep_inv {s : State} (h : s.DataInv) : (recvStep hw s).DataInv := by
  unfold recvStep
  split
  · obtain ⟨a, b, c, d, e', f, g, i, j⟩ := h
    exact ⟨a, b, c, d, by simp, f, g, i, j⟩
  · have hw' : (s.waited hw).DataInv := h.congr rfl rfl rfl rfl rfl rfl rfl
    have hp : ∀ r, ((s.waited hw).popped r).DataInv := fun r => h.congr rfl rfl rfl rfl rfl rfl rfl
    rcases rxWait_cases hw s with ⟨_, e⟩ | ⟨_, _, e⟩ | ⟨r, _, _, e⟩ | ⟨b, r, _, _, _, _, e⟩ | ⟨b, r, _, _, _, hl, e⟩ <;> rw [e]
    · exact hw'.raise _ _
    · exact hw'
    · exact hp r
    · exact (hp r).raise _ _
    · have : (((s.waited hw).popped r).appended b).DataInv := by
        have hl' : s.rawLen.toNat < 50 := hl
        have hcap : s.rawLen.toNat + [b].length ≤ Buffer.cap hw .raw := by simpa [Buffer.cap, hw] using hl'
        obtain ⟨a, b', c, d, e', f, g, i, j⟩ := hp r
        refine ⟨wf_writeBytes _ _ _ a, store_mapped b' hcap, c, d, ?_, f, g, i, ?_⟩
        · show (s.rawLen + 1).toNat ≤ 50
          rw [BitVec.toNat_add, show (1 : Byte).toNat = 1 from rfl]
          omega
        · exact written_store hcap j
      split
      · exact this.phaseDone
      · exact this

/-- The UNSTUFF phase keeps the bounds (R167). -/
theorem State.DataInv.unstuffPhase_inv {s t : State} (h : s.DataInv) (e : unstuffPhase hw s = .next t) : t.DataInv := by
  have hraw : s.rawLen.toNat ≤ 50 := h.rawLen
  have keep : ∀ p, (unstuffPass hw.msgCap 0 (s.cells hw .raw 0 s.rawLen.toNat) .start = .done p ∨
      unstuffPass hw.msgCap 0 (s.cells hw .raw 0 s.rawLen.toNat) .start = .overflow p) →
      p.msg.length ≤ 40 ∧ ((s.setPhase .unstuff).keepPass p).DataInv := by
    intro p hp
    have hb := unstuffPass_bounds hw.msgCap 0 (s.cells hw .raw 0 s.rawLen.toNat) .start p (by simp [Pass.start]) (by
      simp [Pass.start]; omega) hp
    simp only [Pass.start, cells_length] at hb
    have hb2 : 2 * p.cnt.toNat ≤ s.rawLen.toNat := by simpa using hb.2
    refine ⟨hb.1, ?_⟩
    obtain ⟨a, b', c, d, e', f, g, i, j⟩ := h
    have hcap : 0 + p.msg.length ≤ Buffer.cap hw .msg := by simpa [Buffer.cap] using hb.1
    refine ⟨wf_writeBytes _ _ _ a, store_mapped b' hcap, c, d, e', f, g, ?_, written_store hcap j⟩
    show p.cnt.toNat ≤ 32
    omega
  rcases unstuffPhase_cases hw s with ⟨i, _, e'⟩ | ⟨p, hp, e'⟩ | ⟨p, hp, e'⟩ <;> rw [e'] at e <;> cases e
  · exact (keep p (.inr hp)).2.raise _ _
  · obtain ⟨hl, hk⟩ := keep p (.inl hp)
    rcases checkCrc_cases ((s.setPhase .unstuff).keepPass p) p.msg with ⟨_, e⟩ | ⟨_, e⟩ <;> rw [e]
    · exact State.DataInv.raise (hk.congr (t := ((s.setPhase .unstuff).keepPass p).setCrc (crc16 p.msg)) rfl rfl rfl rfl rfl rfl rfl) _ _
    · apply State.DataInv.phaseDone
      obtain ⟨a, b', c, d, e', f, g, i, j⟩ := hk
      refine ⟨a, b', c, d, e', ?_, g, i, j⟩
      show (BitVec.ofNat 8 p.msg.length).toNat ≤ 40
      simp; omega

/-- The exponent register stays in its range (R39). -/
theorem exponent_range (se : Byte) : -63 ≤ (BitVec.ofInt 8 (exponent se)).toInt ∧ (BitVec.ofInt 8 (exponent se)).toInt ≤ 63 := by
  have h : ∀ se : Byte, (decide (-63 ≤ (BitVec.ofInt 8 (exponent se)).toInt) && decide ((BitVec.ofInt 8 (exponent se)).toInt ≤ 63)) = true := by
    decide +kernel
  simpa using h se

/-- The DECODE phase keeps the bounds (R192). -/
theorem State.DataInv.decodePhase_inv {s t : State} {reg : Half} (h : s.DataInv) (e : decodePhase hw reg s = .next t) : t.DataInv := by
  rcases decodePhase_cases hw reg s with ⟨k, n, _, _, e'⟩ | ⟨n, se, bytes, e'⟩ | ⟨i, _, _, e'⟩ <;> rw [e'] at e <;> cases e
  · exact (h.setPhase _).raise _ _
  · apply State.DataInv.phaseDone
    obtain ⟨a, b', c, d, e', f, g, i, j⟩ := h
    exact ⟨a, b', c, d, e', f, exponent_range se, i, j⟩

/-- Two states that agree in every field the sequencer invariant reads. -/
structure SameSeq (s t : State) : Prop where
  status : t.status = s.status
  entry : t.entry = s.entry
  cmd : t.cmd = s.cmd
  txIdx : t.txIdx = s.txIdx
  txLen : t.txLen = s.txLen
  rawLen : t.rawLen = s.rawLen
  msgLen : t.msgLen = s.msgLen
  mem : t.mem = s.mem

/-- The sequencer invariant depends on those fields alone. -/
theorem State.SequencerInv.congr {s t : State} (h : s.SequencerInv) (e : SameSeq s t) : t.SequencerInv := by
  obtain ⟨a1,a2,a3,a4,a5,a6,a7,a8,a9,a10,a11⟩ := h
  obtain ⟨e1,e2,e3,e4,e5,e6,e7,e8⟩ := e
  refine ⟨?_,?_,?_,?_,?_,?_,?_,?_,?_,?_,?_⟩
  · rw [e1,e2]; exact a1
  · rw [e1,e2]; exact a2
  · unfold State.laterPhase at *; rw [e1,e3]; exact a3
  · rw [e1]; exact a4
  · rw [e1]; exact a5
  · rw [e1,e2,e4,e5]; exact a6
  · rw [e1,e2,e6]; exact fun x y z => written_congr e8 (a7 x y z)
  · rw [e1,e6]; exact fun x y => written_congr e8 (a8 x y)
  · rw [e1,e7]; exact fun x y => written_congr e8 (a9 x y)
  · rw [e1,e3]; exact a10
  · rw [e1,e3]; exact a11

/-- The sequencer invariant of an idle state. -/
theorem State.SequencerInv.idle' {t : State} (hb : t.status.busy = false) (he : t.entry = false) (hs : t.status.seq = false)
    (hr : errorRecord t.status.err t.status.info t.status.phase = true)
    (hv : clearsVv t.cmd = true → (t.status.vv = true ↔ t.status.err = .ok)) : t.SequencerInv := by
  constructor <;> simp_all

/-- An error leaves the block idle with its record (R15, R235). -/
theorem inv_raise {s : State} {e : ErrorKind} {n : BitVec 4} (hr : errorRecord e n s.status.phase = true)
    (he : e ≠ .ok) (hv : clearsVv s.cmd = true → s.status.vv = false) : (s.raise e n).SequencerInv := by
  apply State.SequencerInv.idle' <;> simp_all

/-- Completion leaves the block idle without an error (R16). -/
theorem inv_complete {s : State} (hv : clearsVv s.cmd = true → s.status.vv = true) : s.complete.SequencerInv := by
  apply State.SequencerInv.idle' <;> simp_all [errorRecord]

/-- A READREG that enters its next phase (R214). -/
theorem inv_enter {s : State} {p : Phase} (hb : s.status.busy = true) (hs : s.status.seq = true)
    (hc : ∃ a r, decodeWord s.cmd = .ok (.readreg a r)) (he : s.status.err = .ok) (hi : s.status.info = 0)
    (hp : p = .send ∨ p = .recv ∨ p = .unstuff ∧ s.written .raw s.rawLen.toNat ∨ p = .decode ∧ s.written .msg s.msgLen.toNat)
    (hv : clearsVv s.cmd = true → s.status.vv = false) : (s.enterPhase p).SequencerInv := by
  have hw1 : ∀ b n, s.written b n → (s.enterPhase p).written b n := fun b n h => written_congr rfl h
  constructor
  · simp [hb]
  · simp; rcases hp with rfl | rfl | ⟨rfl, _⟩ | ⟨rfl, _⟩ <;> simp
  · intro _ _
    refine .inl ⟨hs, hc, ?_⟩
    simp; rcases hp with rfl | rfl | ⟨rfl, _⟩ | ⟨rfl, _⟩ <;> simp
  · simp [he]
  · simp [he, hi, errorRecord]
  · simp
  · simp
  · intro _ h; rcases hp with rfl | rfl | ⟨rfl, h'⟩ | ⟨rfl, _⟩ <;> simp at h; exact hw1 _ _ h'
  · intro _ h; rcases hp with rfl | rfl | ⟨rfl, _⟩ | ⟨rfl, h'⟩ <;> simp at h; exact hw1 _ _ h'
  · simpa using fun _ => hv
  · simp [hb]

/-- What a phase of the running command may rely on. -/
structure Running (s : State) (p : Phase) (i : Instr) : Prop where
  busy : s.status.busy = true
  cmd : decodeWord s.cmd = .ok i
  kind : (s.status.seq = true ∧ ∃ a r, i = .readreg a r) ∨ (s.status.seq = false ∧ isDecoder i = (p == .decode) ∧ (p = .send → i = .send) ∧ (p = .recv → i = .recv))
  err : s.status.err = .ok
  info : s.status.info = 0
  vv : clearsVv s.cmd = true → s.status.vv = false

/-- The end of a phase below DECODE. -/
theorem inv_done {s : State} {p : Phase} {i : Instr} (h : Running s p i) (hp : s.status.phase = p)
    (hd : p = .build ∨ p = .send ∨ (p = .recv ∧ s.written .raw s.rawLen.toNat) ∨ (p = .unstuff ∧ s.written .msg s.msgLen.toNat)) :
    s.phaseDone.SequencerInv := by
  rcases phaseDone_cases s with ⟨h1, e⟩ | ⟨q, h1, h2, e⟩ | ⟨h1, h2, e⟩
  · rw [e]
    apply inv_complete
    rw [clearsVv_of_decode h.cmd]
    rcases h.kind with ⟨x, _⟩ | ⟨_, x, _⟩
    · simp_all
    · rw [x]; rcases hd with rfl | rfl | ⟨rfl, _⟩ | ⟨rfl, _⟩ <;> exact fun y => absurd y (by decide)
  · rw [e]
    have hr : ∃ a r, decodeWord s.cmd = .ok (.readreg a r) := by
      rcases h.kind with ⟨_, a, r, x⟩ | ⟨x, _⟩
      · exact ⟨a, r, by rw [h.cmd, x]⟩
      · simp_all
    refine inv_enter h.busy h1 hr h.err h.info ?_ h.vv
    rw [hp] at h2
    rcases hd with rfl | rfl | ⟨rfl, hx⟩ | ⟨rfl, hx⟩ <;> cases h2
    · exact .inl rfl
    · exact .inr (.inl rfl)
    · exact .inr (.inr (.inl ⟨rfl, hx⟩))
    · exact .inr (.inr (.inr ⟨rfl, hx⟩))
  · rw [hp] at h2
    rcases hd with rfl | rfl | ⟨rfl, hx⟩ | ⟨rfl, hx⟩ <;> cases h2

/-- A SEND or RECV phase that goes on. -/
theorem inv_stay {s : State} {p : Phase} {i : Instr} (h : Running s p i) (hp : s.status.phase = p) (_he : s.entry = false)
    (hd : (p = .send ∧ s.txIdx.toNat < s.txLen.toNat) ∨ (p = .recv ∧ s.written .raw s.rawLen.toNat)) :
    s.SequencerInv := by
  have hk : s.laterPhase := by
    rcases h.kind with ⟨x, a, r, y⟩ | ⟨x, _, y, z⟩
    · refine .inl ⟨x, ⟨a, r, by rw [h.cmd, y]⟩, ?_⟩
      rcases hd with ⟨rfl, _⟩ | ⟨rfl, _⟩ <;> simp [hp]
    · rcases hd with ⟨rfl, _⟩ | ⟨rfl, _⟩
      · exact .inr (.inl ⟨x, by rw [h.cmd, y rfl], hp⟩)
      · exact .inr (.inr ⟨x, by rw [h.cmd, z rfl], hp⟩)
  constructor
  · simp [h.busy]
  · intro _ h2; rcases hd with ⟨rfl, _⟩ | ⟨rfl, _⟩ <;> simp_all
  · exact fun _ _ => hk
  · exact fun _ => h.err
  · simp [h.err, h.info, errorRecord]
  · intro _ h2 _; rcases hd with ⟨rfl, h3⟩ | ⟨rfl, _⟩; exact h3; simp_all
  · intro _ h2 _; rcases hd with ⟨rfl, _⟩ | ⟨rfl, h3⟩; simp_all; exact h3
  · intro _ h2; rcases hd with ⟨rfl, _⟩ | ⟨rfl, h3⟩ <;> simp_all
  · intro _ h2; rcases hd with ⟨rfl, _⟩ | ⟨rfl, h3⟩ <;> simp_all
  · exact fun _ => h.vv
  · simp [h.busy]

/-- What a phase relies on depends on these fields alone. -/
theorem Running.congr {s t : State} {p : Phase} {i : Instr} (h : Running s p i) (h1 : t.cmd = s.cmd)
    (h2 : t.status.busy = s.status.busy) (h3 : t.status.seq = s.status.seq) (h4 : t.status.err = s.status.err)
    (h5 : t.status.info = s.status.info) (h6 : t.status.vv = s.status.vv) : Running t p i :=
  ⟨h2 ▸ h.busy, h1 ▸ h.cmd, by rw [h3]; exact h.kind, h4 ▸ h.err, h5 ▸ h.info, by rw [h1,h6]; exact h.vv⟩

/-- The BUILD phase (R125). -/
theorem inv_build {s : State} {i : Instr} (h : Running s .build i) (a : Byte) (r : Half) : (buildPhase hw a r s).SequencerInv := by
  have h1 : Running (s.putRequest a r) .build i := h.congr rfl rfl rfl rfl rfl rfl
  rcases buildPhase_cases hw a r s with ⟨_, e⟩ | ⟨_, e⟩ <;> rw [e]
  · exact inv_raise rfl (by decide) h1.vv
  · exact inv_done (h1.congr (t := (s.putRequest a r).putFrame _) rfl rfl rfl rfl rfl rfl) rfl (.inl rfl)

/-- A SEND step (R127). -/
theorem inv_send {s t : State} {i : Instr} (h : Running s .send i)
    (hx : s.entry = false → s.txIdx.toNat < s.txLen.toNat) (e : sendStep hw s = .next t) : t.SequencerInv := by
  have hs : Running s.sendEntry .send i := by
    rw [sendEntry_eq]; exact h.congr rfl rfl rfl rfl rfl rfl
  have hp : s.sendEntry.status.phase = .send := by rw [sendEntry_eq]; rfl
  have hl : s.sendEntry.txLen = s.txLen := by rw [sendEntry_eq]; rfl
  have hlt : s.sendEntry.txIdx ≠ s.txLen → s.sendEntry.txIdx.toNat < s.txLen.toNat := by
    intro hne
    have hne' : s.sendEntry.txIdx.toNat ≠ s.txLen.toNat := fun x => hne (BitVec.eq_of_toNat_eq x)
    rw [sendEntry_txIdx] at *
    cases he : s.entry with
    | true => rw [he] at hne'; simp at hne' ⊢; omega
    | false => simpa using hx he
  rcases sendStep_cases hw s with ⟨_, e'⟩ | ⟨hne, _, e'⟩ | ⟨b, hne, _, hc, e'⟩ | ⟨_, _, _, e'⟩ <;> rw [e'] at e <;> cases e
  · exact inv_done hs hp (.inr (.inl rfl))
  · exact inv_stay hs hp (by simp) (.inl ⟨rfl, by rw [hl]; exact hlt hne⟩)
  · have hs' : Running (s.sendEntry.emit b) .send i := hs.congr rfl rfl rfl rfl rfl rfl
    unfold State.afterEmit
    split
    · exact inv_done hs' hp (.inr (.inl rfl))
    · rename_i hn
      refine inv_stay hs' hp (by simp) (.inl ⟨rfl, ?_⟩)
      have h3 := hlt hne
      have hn' : (s.sendEntry.emit b).txIdx.toNat ≠ (s.sendEntry.emit b).txLen.toNat := fun x => hn (BitVec.eq_of_toNat_eq x)
      simp only [emit_txIdx, emit_txLen, hl, BitVec.toNat_add] at hn' ⊢
      rw [show (1 : Byte).toNat = 1 from rfl] at *
      have := s.txLen.isLt
      omega

/-- A RECV step (R140). -/
theorem inv_recv {s : State} {i : Instr} (h : Running s .recv i)
    (hx : s.entry = false → s.written .raw s.rawLen.toNat) : (recvStep hw s).SequencerInv := by
  unfold recvStep
  split
  · exact inv_stay (p := .recv) (i := i) (h.congr rfl rfl rfl rfl rfl rfl) rfl rfl (.inr ⟨rfl, by intro k hk; simp at hk⟩)
  · rename_i he
    have he' : s.entry = false := by simpa using he
    have hw0 : Running (s.waited hw) .recv i := h.congr rfl rfl rfl rfl rfl rfl
    have hp : ∀ r, Running ((s.waited hw).popped r) .recv i := fun r => h.congr rfl rfl rfl rfl rfl rfl
    have hwr := hx he'
    rcases rxWait_cases hw s with ⟨_, e⟩ | ⟨_, _, e⟩ | ⟨r, _, _, e⟩ | ⟨b, r, _, _, _, _, e⟩ | ⟨b, r, _, _, _, hl, e⟩ <;> rw [e]
    · exact inv_raise rfl (by decide) hw0.vv
    · exact inv_stay hw0 rfl he' (.inr ⟨rfl, hwr⟩)
    · exact inv_stay (hp r) rfl he' (.inr ⟨rfl, hwr⟩)
    · exact inv_raise rfl (by decide) (hp r).vv
    · have hl' : s.rawLen.toNat < 50 := hl
      have ha : Running (((s.waited hw).popped r).appended b) .recv i := h.congr rfl rfl rfl rfl rfl rfl
      have hwr' : (((s.waited hw).popped r).appended b).written .raw (((s.waited hw).popped r).appended b).rawLen.toNat := by
        intro k hk
        have hk' : k < s.rawLen.toNat + 1 := by
          have : (s.rawLen + 1).toNat = s.rawLen.toNat + 1 := by
            rw [BitVec.toNat_add, show (1 : Byte).toNat = 1 from rfl]; omega
          rw [← this]; exact hk
        unfold State.cell
        rw [if_pos (by show k < 50; omega)]
        show (Memory.read (Memory.write s.mem (rawBase + s.rawLen.toNat) b) (rawBase + k)).isSome = true
        rw [read_write]
        split
        · rfl
        · have := hwr k (by omega)
          unfold State.cell at this
          rw [if_pos (by show k < 50; omega)] at this
          exact this
      split
      · exact inv_done ha rfl (.inr (.inr (.inl ⟨rfl, hwr'⟩)))
      · exact inv_stay ha rfl he' (.inr ⟨rfl, hwr'⟩)

/-- The UNSTUFF phase (R167). -/
theorem inv_unstuff {s t : State} {i : Instr} (h : Running s .unstuff i) 
     (e : unstuffPhase hw s = .next t) : t.SequencerInv := by
  have hk : ∀ p, Running ((s.setPhase .unstuff).keepPass p) .unstuff i := fun p => h.congr rfl rfl rfl rfl rfl rfl
  rcases unstuffPhase_cases hw s with ⟨i, _, e'⟩ | ⟨p, hp, e'⟩ | ⟨p, hp, e'⟩ <;> rw [e'] at e <;> cases e
  · exact inv_raise rfl (by decide) (hk p).vv
  · rcases checkCrc_cases ((s.setPhase .unstuff).keepPass p) p.msg with ⟨_, e⟩ | ⟨_, e⟩ <;> rw [e]
    · exact inv_raise (s := ((s.setPhase .unstuff).keepPass p).setCrc _) rfl (by decide) (hk p).vv
    · refine inv_done (i := i) ((hk p).congr rfl rfl rfl rfl rfl rfl) rfl (.inr (.inr (.inr ⟨rfl, ?_⟩)))
      have hb := unstuffPass_bounds hw.msgCap 0 (s.cells hw .raw 0 s.rawLen.toNat) .start p (by simp [Pass.start]) (by
        have := s.rawLen.isLt
        simp [Pass.start]; omega) (.inl hp)
      have hl : p.msg.length ≤ 40 := hb.1
      have hn : (BitVec.ofNat 8 p.msg.length).toNat = p.msg.length := by simp; omega
      intro k hk'
      have hk2 : k < p.msg.length := by rw [← hn]; exact hk'
      exact written_stored (s := s.setPhase .unstuff) (b := .msg) (bytes := p.msg) hl k hk2

/-- The DECODE phase (R192). -/
theorem inv_decode {s t : State} {i : Instr} {reg : Half} (h : Running s .decode i)
     (e : decodePhase hw reg s = .next t) : t.SequencerInv := by
  rcases decodePhase_cases hw reg s with ⟨k, n, hr, hk, e'⟩ | ⟨n, se, bytes, e'⟩ | ⟨i, _, _, e'⟩ <;> rw [e'] at e <;> cases e
  · exact inv_raise hr hk h.vv
  · rcases phaseDone_cases ((s.setPhase .decode).putReading (reading hw n se bytes)) with ⟨_, e⟩ | ⟨p, _, hp, e⟩ | ⟨_, _, e⟩
    · rw [e]; exact inv_complete fun _ => rfl
    · cases hp
    · rw [e]; exact inv_complete fun _ => rfl

end Sys2Proof.Machine
end

