-- ==== Sys2Proof/Laws/PerInstr.lean ====
section
/-! SUPPORT. The family RowMatch: the encoding of every command selects its row of the opcode table (spec 30_encoding.md R84). -/

namespace Sys2Proof.Laws.RowMatch

/-- The number of a command's row in the table, which is its opcode (R83). -/
def row : Instr → Nat
  | .nop => 0
  | .crcclr => 1
  | .crcbyte _ => 2
  | .crcmsg => 3
  | .build _ _ => 4
  | .send => 5
  | .recv => 6
  | .unstuff => 7
  | .decode _ => 8
  | .readreg _ _ => 9

/-- The command's word selects the command's row. -/
def Statement (i : Instr) : Prop := ∃ r, opcodeTable[row i]? = some r ∧ r.selects (encode i) = true

/-- A mask that keeps the upper part of a word. -/
theorem and_upper {n m : Nat} (x : BitVec n) (y : BitVec m) :
    (x ++ y) &&& (BitVec.allOnes n ++ 0#m) = x ++ 0#m := by
  rw [BitVec.and_append, BitVec.and_allOnes, BitVec.and_zero]

/-- A mask that keeps the opcode and the reserved bits, whatever the two operands are. -/
theorem and_opcode (x : BitVec 8) (addr : Byte) (reg : Half) :
    (x ++ addr ++ reg) &&& 0xFF000000#32 = x ++ 0#8 ++ 0#16 := by
  change (x ++ addr ++ reg) &&& (BitVec.allOnes 8 ++ 0#8 ++ 0#16) = _
  rw [BitVec.and_append, and_upper, BitVec.and_zero]

theorem nop : Statement .nop := ⟨_, rfl, rfl⟩

theorem crcclr : Statement .crcclr := ⟨_, rfl, rfl⟩

theorem crcbyte (b : Byte) : Statement (.crcbyte b) := by
  refine ⟨_, rfl, ?_⟩
  revert b
  decide +kernel

theorem crcmsg : Statement .crcmsg := ⟨_, rfl, rfl⟩

theorem build (addr : Byte) (reg : Half) : Statement (.build addr reg) :=
  ⟨_, rfl, beq_iff_eq.2 (and_opcode (0x4#4 ++ 0#4) addr reg)⟩

theorem send : Statement .send := ⟨_, rfl, rfl⟩

theorem recv : Statement .recv := ⟨_, rfl, rfl⟩

theorem unstuff : Statement .unstuff := ⟨_, rfl, rfl⟩

theorem decode (reg : Half) : Statement (.decode reg) :=
  ⟨_, rfl, beq_iff_eq.2 (and_upper (0x8#4 ++ 0#4 ++ 0#8) reg)⟩

theorem readreg (addr : Byte) (reg : Half) : Statement (.readreg addr reg) :=
  ⟨_, rfl, beq_iff_eq.2 (and_opcode (0x9#4 ++ 0#4) addr reg)⟩

end Sys2Proof.Laws.RowMatch
end

