-- ==== Sys2Proof/Tests/Slice0.lean ====
section
/-! SUPPORT. The model's own tests (expected values from spec 30_encoding.md, 95_test_vectors.md and the rules named) and one witness for the hypotheses of every statement. -/

namespace Sys2Proof.Tests

set_option Elab.async false

open Sys2Proof Sys2Proof.Machine

/-! ## Well-formedness (R86, R8) -/

theorem test_wf_accepts :
    (Asm.crcbyte 0xFF).wf && (Asm.build 0xFF 0xFFFF).wf && (Asm.decode 0xFFFF).wf && (Asm.readreg 0 0xFFFF).wf &&
      Asm.nop.wf && Asm.crcclr.wf && Asm.crcmsg.wf && Asm.send.wf && Asm.recv.wf && Asm.unstuff.wf = true := by decide

theorem test_wf_refuses_byte : (Asm.crcbyte 0x100).wf = false := by decide

theorem test_wf_refuses_build_operands : ((Asm.build 0x100 0).wf || (Asm.build 0 0x10000).wf) = false := by decide

theorem test_wf_refuses_decode_operand : (Asm.decode 0x10000).wf = false := by decide

theorem test_wf_refuses_readreg_operands :
    ((Asm.readreg 0x100 0).wf || (Asm.readreg 0 0x10000).wf) = false := by decide

theorem test_ill_formed_does_not_assemble :
    assemble (.crcbyte 0x100) = none ∧ assemble (.build 0x3f 0x10000) = none := by decide

theorem test_config_wf : hw.toParams.wf = true ∧ (Config.build hw.toParams).isSome = true := by decide +kernel

theorem test_config_refuses :
    [{ hw.toParams with txCap := 65 }, { hw.toParams with rawCap := 65 }, { hw.toParams with msgCap := 65 },
      { hw.toParams with rawCap := 0 }, { hw.toParams with timeoutMs := 2 ^ 32 }, { hw.toParams with timeW := 7 },
      { hw.toParams with mantW := 31 }, { hw.toParams with timeW := 33 }, { hw.toParams with win := 65 }].all
        (fun p => !p.wf && (Config.build p).isNone) = true := by decide +kernel

/-- R7: a clock of 8 bits wraps at 256 ms. -/
theorem test_time_width :
    timeBits { hw with timeW := 8, ok := by decide } 0x1FF = 0xFF ∧
      State.sinceStart { State.reset with startMs := 0xFE } { hw with timeW := 8, ok := by decide } = 2 := by decide +kernel

/-! ## Decoding: words written out from the encoding strings of R84 -/

theorem test_decode_nop : decodeWord 0b00000000000000000000000000000000 = .ok .nop := by decide
theorem test_decode_crcclr : decodeWord 0b00010000000000000000000000000000 = .ok .crcclr := by decide
theorem test_decode_crcbyte : decodeWord 0b00100000000000000000000011000101 = .ok (.crcbyte 0xC5) := by decide
theorem test_decode_crcmsg : decodeWord 0b00110000000000000000000000000000 = .ok .crcmsg := by decide
theorem test_decode_build :
    decodeWord 0b01000000001111110000000100111100 = .ok (.build 0x3F 0x013C) := by decide
theorem test_decode_send : decodeWord 0b01010000000000000000000000000000 = .ok .send := by decide
theorem test_decode_recv : decodeWord 0b01100000000000000000000000000000 = .ok .recv := by decide
theorem test_decode_unstuff : decodeWord 0b01110000000000000000000000000000 = .ok .unstuff := by decide
theorem test_decode_decode : decodeWord 0b10000000000000000000000100111100 = .ok (.decode 0x013C) := by decide
theorem test_decode_readreg :
    decodeWord 0b10010000001111110000000100111100 = .ok (.readreg 0x3F 0x013C) := by decide

/-- R85: reserved opcodes (INFO 1) and bits outside the fields (INFO 2). -/
theorem test_decode_illegal :
    [0xA0000000#32, 0xFFFFFFFF#32, 0x00000001#32, 0x20000100#32, 0x41000000#32, 0x80010000#32, 0x99000000#32].map
        (fun w => match decodeWord w with | .ok _ => 0#4 | .error e => e.info) =
      [1, 1, 2, 2, 2, 2, 2] := by decide

theorem test_decodeTableWord :
    decodeTableWord 32 0x403F003C = some (.build 0x3F 0x003C) ∧ decodeTableWord 32 0xB0000000 = none := by decide +kernel

/-! ## States for the tests -/

/-- The next state of a result, if it is one. -/
def nextOf : StepResult → Option State
  | .next t => some t
  | .fault _ => none
  | .refused _ => none

/-- A command word accepted in a state (R212). -/
def accepted (i : Instr) (s : State) : State := acceptCommand (encode i) s

/-- MSG and MSG_LEN as `ldmsg` leaves them (R87). -/
def withMsg (bytes : List Byte) : State :=
  { State.reset.store .msg 0 bytes with msgLen := BitVec.ofNat 8 bytes.length }

/-- RAW and RAW_LEN as `ldraw` leaves them (R87). -/
def withRaw (bytes : List Byte) : State :=
  { State.reset.store .raw 0 bytes with rawLen := BitVec.ofNat 8 bytes.length }

/-- TXBUF and TX_LEN holding a frame. -/
def withFrame (bytes : List Byte) : State :=
  { State.reset.store .tx 0 bytes with txLen := BitVec.ofNat 8 bytes.length }

/-- A command that runs in a phase after its entry. -/
def running (i : Instr) (p : Phase) (seq : Bool) (s : State) : State :=
  { s with cmd := encode i, entry := false, status := { s.status with busy := true, phase := p, seq := seq } }

/-- The peer's queue and the time since the start of a receive. -/
def receiving (queue : List Byte) (ms : Word) (s : State) : State :=
  { s with startMs := 0xFFFFFFFB, env := { s.env with rxQueue := queue, nowMs := 0xFFFFFFFB + ms } }

/-- The example frame of R125. -/
def exampleFrame : List Byte := [0x80, 0x3f, 0x10, 0x01, 0x00, 0x3c, 0xb2, 0x5f, 0x0d]

/-- The example message of R193 with the CRC of V-CRC-12. -/
def exampleMsg : List Byte := [0x3f, 0x10, 0x00, 0x3c, 0x00, 0x03, 0x00, 0x00, 0x01, 0x2c, 0x9b, 0x3f]

/-! ## One step of each command (95_test_vectors.md) -/

/-- R215: after a Timeout, NOP clears ERR and keeps VV. -/
theorem test_nop :
    (nextOf (exec .nop (accepted .nop { State.reset with
      status := { State.reset.status with err := .timeout, vv := true } }))).map (·.status.word) =
      some 0x00010000 := by decide

/-- V-CRC-15. -/
theorem test_crcclr :
    (nextOf (exec .crcclr { State.reset with crc := 0xBEEF })).map (fun t => (t.crc, t.status.word)) =
      some (0, 0x0000000C) := by decide

/-- V-CRC-16 and V-CRC-4. -/
theorem test_crcbyte :
    (nextOf (exec (.crcbyte 0xff) { State.reset with crc := 0x1234 })).map (fun t => (t.crc, t.status.word)) =
      some (0x068C, 0x0000000C) ∧
    (nextOf (exec (.crcbyte 0x00) { State.reset with crc := 0x0100 })).map (·.crc) = some 0x1021 := by decide +kernel

/-- V-CRC-10. -/
theorem test_crcmsg :
    (nextOf (exec .crcmsg (withMsg [0x3f, 0x10, 0x01, 0x00, 0x3c, 0x00, 0x00]))).map
      (fun t => (t.crc, t.status.word)) = some (0xB25F, 0x0000000C) := by decide +kernel

/-- V-ENC-3: a CRC byte is stuffed. -/
theorem test_build :
    (nextOf (exec (.build 0x3f 0x0000) State.reset)).map (fun t => (t.crc, t.txLen, t.status.word, t.cells hw .tx 0 11)) =
      some (0x4580, 10, 0x00000002,
        [0x80#8, 0x3f, 0x10, 0x01, 0x00, 0x00, 0x45, 0x1b, 0x7f, 0x0d].map some ++ [none]) := by decide +kernel

/-- V-ENC-17: nothing to send; and the first step of V-ENC-13. -/
theorem test_send :
    (nextOf (exec .send (accepted .send State.reset))).map (fun t => (t.status.word, t.env.wire)) =
      some (0x00000004, []) ∧
    (nextOf (exec .send (accepted .send (withFrame exampleFrame)))).map (fun t => (t.status.word, t.env.wire, t.txInfo)) =
      some (0x00000005, [0x80], 0x00000109) := by decide +kernel

/-- V-RX-4 and V-RX-5: at 200 ms the byte is read, at 201 ms it is not. -/
theorem test_recv :
    (nextOf (exec .recv (running .recv .recv false (receiving [0x0d] 200 State.reset)))).map
      (fun t => (t.status.word, t.rawLen, t.elapsed, t.env.rxQueue)) = some (0x00000006, 1, 200, []) ∧
    (nextOf (exec .recv (running .recv .recv false (receiving [0x0d] 201 State.reset)))).map
      (fun t => (t.status.word, t.rawLen, t.elapsed, t.env.rxQueue)) = some (0x00000106, 0, 201, [0x0d]) := by
  decide +kernel

/-- V-DEC-12: a pair, then a dangling marker. -/
theorem test_unstuff_dangling :
    (nextOf (exec .unstuff (withRaw [0x1b, 0xe4, 0x1b, 0x0d]))).map
      (fun t => (t.status.word, t.crc, t.escInfo, t.msgLen, t.cells hw .msg 0 3)) =
      some (0x00020208, 0x1BF2, 0xF201, 0, [some 0x1b, some 0xf2, none]) := by decide +kernel

/-- V-DEC-17: the message buffer overflows and CRC is not computed. -/
theorem test_unstuff_overflow :
    (nextOf (exec .unstuff { withRaw (List.replicate 41 0x00 ++ [0x0d]) with crc := 0xBEEF })).map
      (fun t => (t.status.word, t.crc, t.msgLen)) = some (0x00003508, 0xBEEF, 0) := by decide +kernel

/-- The example of R193 (W4), and V-VAL-23: the product of the two rounded factors. -/
theorem test_decode :
    (nextOf (exec (.decode 0x003c) (withMsg [0x3f, 0x10, 0x00, 0x3c, 0x00, 0x03, 0x00, 0x00, 0x01, 0x2c]))).map
      (fun t => (t.status.word, t.result.mant, t.result.value)) = some (0x0001000A, 0x0000012C, 0x43960000) ∧
    (nextOf (exec (.decode 0x003c) (withMsg [0x3f, 0x10, 0x00, 0x3c, 0x00, 0x01, 0x41, 0x09]))).map
      (fun t => (t.result.expsgn, t.result.value)) = some (0x014100FF, 0x3F666667) := by decide +kernel

/-- V-VAL-39: wrong in header and register is MalformedHeader; V-VAL-42: MalformedLength 4. -/
theorem test_decode_errors :
    (nextOf (exec (.decode 0x003c) (withMsg [0x3f, 0x11, 0x00, 0x50]))).map (·.status.word) = some 0x0000030A ∧
    (nextOf (exec (.decode 0x003c) (withMsg [0x3f, 0x10, 0x00, 0x3c, 0x00, 0x03, 0x00, 0x00, 0x01]))).map (·.status.word) =
      some 0x0000460A := by decide +kernel

/-- R216: the first step of READREG builds and moves to SEND. -/
theorem test_readreg_first :
    (nextOf (exec (.readreg 0x3f 0x003c) (accepted (.readreg 0x3f 0x003c) State.reset))).map
      (fun t => (t.status.word, t.entry, t.txLen)) = some (0x00000015, true, 9) := by decide +kernel

/-- R37: a command step that reads a cell not written since reset faults. -/
theorem test_unwritten_cell_faults :
    exec .crcmsg { State.reset with msgLen := 1 } = .fault (.unwrittenCell .msg 0) := rfl

/-- R29, R52: TX_IDX stays within TX_LEN, whatever the free value is. -/
theorem test_shorter_build (n : Nat) :
    State.indexWithin { State.reset with txIdx := 13, draws := n } 9 ≤ 9 :=
  indexWithin_le _ 9

/-- R87: a poll of `wait` while BUSY is 1 stays, and ends when BUSY is 0. -/
theorem test_wait :
    (nextOf (act .program { State.reset.withFetchWord 32 0x60000000 with program := [.wait] })).map
      (fun t => (t.program, t.hostLog)) = some ([.wait], [(0x01, 0x00000001)]) ∧
    (nextOf (act .program { State.reset with program := [.wait] })).map
      (fun t => (t.program, t.hostLog)) = some ([], [(0x01, 0x00000000)]) := by decide +kernel

/-- The machine's interface: a word placed to be fetched runs as the next step. -/
theorem test_withFetchWord :
    (nextOf (step (State.reset.withFetchWord 32 0x60000000))).map (·.status.word) = some 0x00000007 := by decide +kernel

/-! ## Witnesses: for every statement with hypotheses, states and operands that meet them all -/

theorem witness_DecodeInvertsEncode : decodeWord (encode (.readreg 0xFF 0xFFFF)) = .ok (.readreg 0xFF 0xFFFF) := by decide

theorem witness_TheTableDecidesEveryWord :
    ∃ r, opcodeTable[9]? = some r ∧ 0x90FFFFFF#32 &&& r.mask = r.mtch := ⟨_, rfl, by decide⟩

theorem witness_AssemblyTruncatesNoOperand :
    assemble (.crcbyte 0xFF) = some (.crcbyte 0xFF) ∧ 0xFF < 0x100 ∧ 0xFFFF < 0x10000 ∧
      assemble (.build 0xFF 0xFFFF) = some (.build 0xFF 0xFFFF) := by decide

theorem witness_StepRunsTheCommandInCmd :
    let s := State.reset.withFetchWord 32 0x50000000
    nextAction s = .block ∧ s.status.busy = true ∧ s.status.phase = .noPhase ∧ decodeWord s.cmd = .ok .send := by decide

/-- A SEND that has sent one byte of two. -/
def midSend : State := { running .send .send false (withFrame [0x80, 0x0d]) with txIdx := 1 }

theorem midSend_inv : midSend.DataInv ∧ midSend.SequencerInv := by
  refine ⟨⟨by decide, ?_, by decide, by decide, by decide, by decide, by decide, by decide, by decide⟩,
    ⟨by decide, by decide, fun _ _ => .inr (.inl (by decide)), by decide, by decide, by decide, by decide, by decide,
      by decide, by decide, by decide⟩⟩
  intro x hx
  have h : x ∈ [(0x40, (0x80 : Byte)), (0x41, (0x0d : Byte))] := hx
  simp only [List.mem_cons, List.not_mem_nil, or_false] at h
  rcases h with rfl | rfl
  · exact ⟨.tx, 0, by decide, rfl⟩
  · exact ⟨.tx, 1, by decide, rfl⟩

theorem witness_LaterStepsRunTheSameCommand :
    midSend.SequencerInv ∧ midSend.status.busy = true ∧ midSend.status.phase ≠ .noPhase ∧
      decodeWord midSend.cmd = .ok .send := ⟨midSend_inv.2, by decide⟩

theorem witness_WritingACommandRunsIt :
    let s := { State.reset with program := execCmd (.decode 0x003c), script := [.program, .block, .program] }
    s.status.busy = false ∧ s.program = issue (.decode 0x003c) ++ [.wait] ∧ s.script = .program :: .block :: [.program] := by
  decide

theorem witness_CommandAccept : State.reset.status.busy = false ∧ midSend.status.busy = true := by decide

theorem witness_IllegalCommandChangesOnlyTheOutcome :
    State.reset.status.busy = false ∧ (∀ r ∈ opcodeTable, 0xA0000000#32 &&& r.mask ≠ r.mtch) ∧
      (∀ r ∈ opcodeTable, 0x91000000#32 &&& r.mask ≠ r.mtch) ∧
      (∀ r ∈ opcodeTable, 0x00000001#32 &&& r.mask ≠ r.mtch) := by decide

theorem witness_CrcIsLinear : ([0x12, 0x34] : List Byte).length = ([0xff, 0x00] : List Byte).length := by decide

theorem witness_CrcmsgResult :
    exampleMsg.length = (withMsg exampleMsg).msgLen.toNat ∧ (withMsg exampleMsg).holds .msg 0 exampleMsg ∧
      ([] : List Byte).length = State.reset.msgLen.toNat ∧ State.reset.holds .msg 0 [] := by decide +kernel

theorem witness_ReservedBytesOnlyDelimit : (frame [0x0d])[1]? = some (0x1b : Byte) := by decide

theorem witness_BuildBeyondTheCapacity :
    ({ hw with txCap := 8, ok := by decide } : Config).txCap < (frame (request 0x3f 0x003c)).length := by decide +kernel

theorem witness_SendStepResult :
    (accepted .send State.reset).txLen = 0 ∧ (accepted .send State.reset).entry = true ∧
    midSend.txIdx ≠ midSend.txLen ∧ midSend.env.txReady = true ∧ midSend.holds .tx 1 [0x0d] ∧
      midSend.txIdx + 1 = midSend.txLen ∧
    (let s := accepted .send (withFrame [0x80, 0x0d]);
      s.entry = true ∧ (0 : Byte) ≠ s.txLen ∧ s.env.txReady = true ∧ s.holds .tx 0 [0x80] ∧ (0 : Byte) + 1 ≠ s.txLen) ∧
    (midSend.withEnv { midSend.env with txReady := false }).env.txReady = false := by decide

theorem witness_SendSendsTheWholeFrame :
    let s := accepted .send (withFrame exampleFrame)
    s.status.busy = true ∧ s.status.phase = .noPhase ∧ s.status.seq = false ∧ decodeWord s.cmd = .ok .send ∧
      s.entry = true ∧ s.env.txReady = true ∧ exampleFrame ≠ [] ∧ exampleFrame.length = s.txLen.toNat ∧
      s.holds .tx 0 exampleFrame := by decide +kernel

theorem witness_SendWaitsForThePeer :
    let s := midSend.withEnv { midSend.env with txReady := false }
    s.status.busy = true ∧ s.status.phase = .send ∧ s.entry = false ∧ s.txIdx ≠ s.txLen ∧ s.env.txReady = false := by
  decide

theorem witness_RxInitResult : (accepted .recv State.reset).entry = true := by decide

theorem witness_TimeoutComesBeforeTheByte :
    let s := receiving [0x0d] 201 State.reset
    let t := receiving [0x0d] 200 State.reset
    let u := receiving [] 200 State.reset
    s.entry = false ∧ 201 ≤ (s.env.nowMs - s.startMs).toNat ∧
    t.entry = false ∧ (t.env.nowMs - t.startMs).toNat ≤ 200 ∧ t.env.rxQueue = 0x0d :: [] ∧
    (u.env.nowMs - u.startMs).toNat ≤ 200 ∧ u.env.rxQueue = [] := by decide

theorem witness_StartMarkerIsDropped :
    let s := receiving [0x40, 0x0d] 200 State.reset
    s.entry = false ∧ (s.env.nowMs - s.startMs).toNat ≤ 200 ∧ s.env.rxQueue = 0x40 :: [0x0d] := by decide

theorem witness_ReceivedByteIsAppended :
    let s := receiving [0x0d, 0x77] 200 { State.reset with rawLen := 50 }
    let t := receiving [0x0d, 0x77] 200 { State.reset with rawLen := 49 }
    s.entry = false ∧ (s.env.nowMs - s.startMs).toNat ≤ 200 ∧ s.env.rxQueue = 0x0d :: [0x77] ∧ (0x0d : Byte) ≠ 0x40 ∧
    s.rawLen.toNat = 50 ∧
    t.entry = false ∧ (t.env.nowMs - t.startMs).toNat ≤ 200 ∧ t.env.rxQueue = 0x0d :: [0x77] ∧ t.rawLen.toNat < 50 := by
  decide

theorem witness_ReceiveFiltersAndStops :
    let stream : List Byte := 0x40 :: 0x1b :: 0x40 :: List.replicate 48 0x11
    let s := running .recv .recv false (receiving (stream ++ [0x0d, 0x55]) 200 State.reset)
    s.status.busy = true ∧ s.status.phase = .recv ∧ s.entry = false ∧ s.status.seq = false ∧ s.rawLen = 0 ∧
      (s.env.nowMs - s.startMs).toNat ≤ 200 ∧ 0x0d ∉ stream ∧ s.env.rxQueue = stream ++ 0x0d :: [0x55] ∧
      (stream.filter (fun b => b ≠ 0x40)).length < 50 := by decide +kernel

theorem witness_UnstuffInvertsStuff : ([0x06, 0x0d, 0x1b] : List Byte).length ≤ 3 := by decide

/-- V-DEC-12's raw buffer, as units and a dangling marker, and V-DEC-16's at the capacity. -/
theorem witness_UnstuffResult :
    let items := [RawItem.pair 0xe4]
    let s := withRaw (rawBytes items true 0x0d)
    let zeros := List.replicate 40 (RawItem.plain 0x00)
    let t := withRaw (rawBytes zeros false 0x0d)
    rawBytes items true 0x0d = [0x1b, 0xe4, 0x1b, 0x0d] ∧ (∀ u ∈ items, u.wf = true) ∧
      (rawBytes items true 0x0d).length = s.rawLen.toNat ∧ s.holds .raw 0 (rawBytes items true 0x0d) ∧
      (rawUnits items true 0x0d).length ≤ 40 ∧
    (∀ u ∈ zeros, u.wf = true) ∧ (rawBytes zeros false 0x0d).length = t.rawLen.toNat ∧
      t.holds .raw 0 (rawBytes zeros false 0x0d) ∧ (rawUnits zeros false 0x0d).length ≤ 40 := by decide +kernel

theorem witness_UnstuffBeyondTheCapacity :
    let zeros := List.replicate 41 (RawItem.plain 0x00)
    let s := withRaw (rawBytes zeros false 0x0d)
    (∀ u ∈ zeros, u.wf = true) ∧ (rawBytes zeros false 0x0d).length = s.rawLen.toNat ∧
      s.holds .raw 0 (rawBytes zeros false 0x0d) ∧ 40 < (rawUnits zeros false 0x0d).length := by decide +kernel

theorem witness_UnstuffCompletesOnWrittenCells :
    let s := withRaw (List.replicate 50 0x1b)
    State.reset.rawLen = 0 ∧ s.status.seq = false ∧ s.written .raw s.rawLen.toNat := by decide +kernel

/-- A message at each length where a check of the decoder decides: 0 to 12 bytes of the example. -/
theorem witness_DecodeChecksInOrderThenReads :
    ∀ k ∈ List.range 13,
      let msg := exampleMsg.take k
      msg.length = (withMsg msg).msgLen.toNat ∧ (withMsg msg).holds .msg 0 msg := by decide +kernel

theorem witness_SignIsOnTheScale :
    (0x80000000 : Word).toInt < 0 ∧ (-63 : Int) ≤ 63 ∧ (-63 : Int) ≤ 38 ∧ (38 : Int) < 39 ∧ (39 : Int) ≤ 63 := by decide

theorem witness_PowersOfTenAreRounded : 0 ∈ List.range 64 ∧ 63 ∈ List.range 64 := by decide

/-- A finite rounding that is a tie, and one to infinity at the boundary. -/
theorem witness_RoundingIsToNearestEven :
    0 < 1 ∧ roundRat (2 ^ 24 + 1) 1 ≠ 0x7F800000 ∧ (0x4B800000 : Word) < 0x7F800000 ∧
      (0x4B800000 : Word) ≠ 0x4B800001 ∧ roundRat ((2 ^ 25 - 1) * 2 ^ 103) 1 = 0x7F800000 := by decide +kernel

theorem witness_SmallIntegersConvertExactly : (-(2 ^ 24) : Int) ≤ -(2 ^ 24) ∧ (2 ^ 24 : Int) ≤ 2 ^ 24 := by decide

theorem witness_MultiplicationRoundsOnce :
    (0xFF7FFFFF : Word) &&& 0x7FFFFFFF < 0x7F800000 ∧ (0x80000000 : Word) &&& 0x7FFFFFFF < 0x7F800000 ∧
    (0xFF800000 : Word) &&& 0x7FFFFFFF = 0x7F800000 ∧ (0x80000000 : Word) &&& 0x7FFFFFFF ≤ 0x7F800000 ∧
    (0x80000000 : Word) &&& 0x7FFFFFFF = 0 ∧ (0x00000001 : Word) &&& 0x7FFFFFFF ≠ 0 := by decide

theorem witness_PhaseDoneChainsOrCompletes :
    midSend.status.seq = false ∧
    (let s := running (.readreg 0x3f 0x003c) .unstuff true State.reset;
      s.status.seq = true ∧ s.status.phase = .unstuff ∧
      (Phase.unstuff, Phase.decode) ∈
        [(Phase.build, Phase.send), (.send, .recv), (.recv, .unstuff), (.unstuff, .decode)]) ∧
    (let s := running (.readreg 0x3f 0x003c) .decode true State.reset;
      s.status.seq = true ∧ s.status.phase = .decode) := by decide

theorem witness_ReadregBuildsFirst : (accepted (.readreg 0x3f 0x003c) State.reset).status.phase = .noPhase := by decide

/-- READREG in each of its phases beside the single command. -/
theorem witness_ReadregIsItsFivePhases :
    ∀ p ∈ [Phase.noPhase, .send, .recv, .unstuff, .decode],
      let s := running (.readreg 0x3f 0x003c) p (p ≠ .noPhase) (withFrame exampleFrame)
      let t := running .send .noPhase false (withFrame exampleFrame)
      s.withoutSequencing = t.withoutSequencing ∧ s.entry = t.entry ∧ s.status.err = .ok ∧ s.status.info = 0 ∧
        s.status.busy = true ∧ t.status.busy = true ∧ t.status.seq = false ∧ s.status.phase = p ∧
        (p = .noPhase ∨ s.status.seq = true) := by decide +kernel

theorem witness_ReadregTransactionReadsTheValue :
    State.reset.status.busy = false ∧ State.reset.env.txReady = true ∧ crc16 exampleMsg = 0 ∧ 7 ≤ exampleMsg.length ∧
      exampleMsg.length ≤ 40 ∧ (exampleMsg.map stuff).flatten.length < 50 ∧ exampleMsg.getD 0 0 = 0x3f ∧
      exampleMsg.getD 1 0 = 0x10 ∧ exampleMsg.getD 2 0 ++ exampleMsg.getD 3 0 = (0x003c : Half) ∧
      7 + (exampleMsg.getD 5 0).toNat ≤ exampleMsg.length := by decide +kernel

theorem witness_OneStepCommandsEnd :
    ∃ t, exec (.build 0x3f 0x003c) State.reset = .next t ∧ State.reset.status.seq = false := ⟨_, rfl, rfl⟩

theorem witness_HostReadHasNoSideEffect :
    ∀ off ∈ [0x01#8, 0x06, 0x09, 0x0F, 0x10, 0x40, 0x7F],
      off ≠ 0x00 ∧ off ≠ 0x07 ∧ off ≠ 0x08 ∧ off < 0x80 := by decide

theorem witness_BusyWriteOnlySetsRej :
    midSend.status.busy = true ∧
    ∀ off ∈ [0x00#8, 0x07, 0x08, 0x80, 0xFF], off = 0x00 ∨ off = 0x07 ∨ off = 0x08 ∨ 0x80 ≤ off := by decide

theorem witness_IdleWritesSetLengthsAndCells :
    State.reset.status.busy = false ∧ 49 < 50 ∧ (50 ≤ 63 ∧ 63 < 64) ∧ 39 < 40 ∧ 40 ≤ 63 := by decide

theorem witness_RegisterMap :
    (∀ off ∈ [0x17#8, 0x3F], 0x17 ≤ off ∧ off < 0x40) ∧
    (∀ off ∈ [0x54#8, 0x7F, 0xB2, 0xBF, 0xE8, 0xFF],
      (0x54 ≤ off ∧ off < 0x80) ∨ (0xB2 ≤ off ∧ off < 0xC0) ∨ 0xE8 ≤ off) ∧
    (∀ off ∈ [0x10#8, 0x16, 0x40, 0x53, 0x80, 0xB1, 0xC0, 0xE7],
      ((0x10 ≤ off ∧ off < 0x17) ∨ (0x40 ≤ off ∧ off < 0x54) ∨ (0x80 ≤ off ∧ off < 0xB2) ∨ (0xC0 ≤ off ∧ off < 0xE8)) ∧
      Memory.read State.reset.mem off.toNat = none) ∧
    Memory.read (withMsg exampleMsg).mem 0xC0 = some 0x3f := by decide +kernel

theorem witness_DataBoundsKeptByEveryStep :
    (midSend.DataInv ∧ midSend.SequencerInv) ∧ ∃ t, act .block midSend = .next t := ⟨midSend_inv, _, rfl⟩

theorem midSend_script_inv (a : Action) :
    State.DataInv { midSend with script := [a] } ∧ State.SequencerInv { midSend with script := [a] } := by
  obtain ⟨⟨d1, d2, d3, d4, d5, d6, d7, d8, d9⟩, ⟨s1, s2, s3, s4, s5, s6, s7, s8, s9, s10, s11⟩⟩ := midSend_inv
  exact ⟨⟨d1, d2, d3, d4, d5, d6, d7, d8, d9⟩, ⟨s1, s2, s3, s4, s5, s6, s7, s8, s9, s10, s11⟩⟩

theorem witness_SequencerFactsKeptByEveryStep :
    ∃ t, State.SequencerInv { midSend with script := [.block] } ∧ step { midSend with script := [.block] } = .next t :=
  ⟨_, (midSend_script_inv .block).2, rfl⟩

theorem witness_OnlyUnwrittenCellsStopAStep :
    State.DataInv { midSend with script := [.program] } ∧
      State.SequencerInv { midSend with script := [.program] } := midSend_script_inv _

theorem witness_BoundsOfR52HoldAfterEveryStep :
    State.DataInv { midSend with script := [.tick 1] } ∧ State.SequencerInv { midSend with script := [.tick 1] } ∧
      ∃ t, step { midSend with script := [.tick 1] } = .next t :=
  ⟨(midSend_script_inv _).1, (midSend_script_inv _).2, _, rfl⟩

theorem witness_PseudoInstructionsExpand :
    (Action.peerByte 0x0d ≠ .program ∧
      ∃ t, act (.peerByte 0x0d) { midSend with program := [.wait] } = .next t) ∧
    (List.replicate 40 (0 : Byte)).length ≤ 40 ∧ ¬(List.replicate 51 (0 : Byte)).length ≤ 50 :=
  ⟨⟨by decide, _, rfl⟩, by decide, by decide⟩

theorem witness_OnlyBuildWritesTheFrame :
    (∃ t, exec .send midSend = .next t) ∧
    (let s := running (.readreg 0x3f 0x003c) .recv true (receiving [0x0d] 0 State.reset);
      (∃ t, exec (.readreg 0x3f 0x003c) s = .next t) ∧ s.status.phase ≠ .noPhase) :=
  ⟨⟨_, rfl⟩, ⟨_, rfl⟩, by decide⟩

theorem witness_OnlyDecodeWritesTheResult :
    ∃ t, exec (.decode 0x003c) (withMsg []) = .next t := ⟨_, rfl⟩

theorem witness_NoCommandTouchesTheRest : ∃ t, exec .recv (accepted .recv State.reset) = .next t := ⟨_, rfl⟩

end Sys2Proof.Tests
end

section
/-! Taking an error (spec 00_scope.md R15 with 60_exceptions.md R233): what `raise` does to the whole state. -/

namespace Sys2Proof.Proofs.Scope

open Sys2Proof Sys2Proof.Machine

/-- The three lengths R233 names, and TX_IDX with TX_LEN (log entry 7): each is zeroed in one phase only. -/
theorem zeroOutput_eq_ite (s : State) :
    s.zeroOutput =
      { s with
        txLen := if s.status.phase = .build then 0 else s.txLen
        txIdx := if s.status.phase = .build then 0 else s.txIdx
        rawLen := if s.status.phase = .recv then 0 else s.rawLen
        msgLen := if s.status.phase = .unstuff then 0 else s.msgLen } := by
  cases h : s.status.phase with
  | build => simp [State.zeroOutput, h]
  | recv => simp [State.zeroOutput, State.setRawLen, h]
  | unstuff => simp [State.zeroOutput, State.setMsgLen, h]
  | noPhase | send | decode | crc => simp [State.zeroOutput, h]

/-- Settles O42: `raise` is the zeroing of the failing phase's length, then the recording of the outcome. -/
theorem raiseByPhase : Obligations.RaiseByPhase := by
  intro s e info
  calc s.raise e info
      = s.zeroOutput.finish e info := rfl
    _ = _ := by rw [zeroOutput_eq_ite]; rfl

end Sys2Proof.Proofs.Scope
end

section
/-! What one step can do, said once: which agent acts (spec 10_state.md R20), what a block step dispatches to (45_transaction.md R213) and what a host write does (20_memory.md R62 to R65). -/

namespace Sys2Proof.Proofs.Steps

open Sys2Proof Sys2Proof.Machine

/-- No register and no buffer cell of the block differs: the environment, the program and the model's own fields may. -/
def OutsideOnly (s t : State) : Prop :=
  ∃ e prog acts log n, t = { s with env := e, program := prog, script := acts, hostLog := log, draws := n }

theorem OutsideOnly.dataInv {s t : State} (h : OutsideOnly s t) (hs : s.DataInv) : t.DataInv := by
  obtain ⟨e, prog, acts, log, n, rfl⟩ := h
  exact hs.congr rfl rfl rfl rfl rfl rfl rfl

theorem OutsideOnly.sequencerInv {s t : State} (h : OutsideOnly s t) (hs : s.SequencerInv) : t.SequencerInv := by
  obtain ⟨e, prog, acts, log, n, rfl⟩ := h
  exact hs.congr ⟨rfl, rfl, rfl, rfl, rfl, rfl, rfl, rfl⟩

theorem outsideOnly_takeAction (s : State) : OutsideOnly s (takeAction s) := by
  unfold takeAction
  split <;> exact ⟨_, _, _, _, _, rfl⟩

/-- A poll of `wait` is a read, and the `wait` may stay (R87). -/
theorem outsideOnly_pollBusy (s : State) : OutsideOnly s (pollBusy s) := by
  unfold pollBusy
  split <;> exact ⟨_, _, _, _, _, rfl⟩

theorem OutsideOnly.trans {s t u : State} (h : OutsideOnly s t) (h' : OutsideOnly t u) : OutsideOnly s u := by
  obtain ⟨e, prog, acts, log, n, rfl⟩ := h
  obtain ⟨e', prog', acts', log', n', rfl⟩ := h'
  exact ⟨_, _, _, _, _, rfl⟩

/-- The program's act leaves the block alone or is a host write (R13, R86, R87). -/
theorem programStep_outside_or_write (s : State) :
    ∃ s', OutsideOnly s s' ∧ (programStep s = s' ∨ ∃ off v, programStep s = hostWrite hw off v s') := by
  unfold programStep
  split
  · exact ⟨s, ⟨_, _, _, _, _, rfl⟩, .inl rfl⟩
  · next st rest _ =>
    have hr : OutsideOnly s { s with program := rest } := ⟨_, _, _, _, _, rfl⟩
    cases st with
    | wr off v => exact ⟨_, hr, .inr ⟨off, v, rfl⟩⟩
    | rd off => exact ⟨_, ⟨_, _, _, _, _, rfl⟩, .inl rfl⟩
    | wait => exact ⟨_, hr.trans (outsideOnly_pollBusy _), .inl rfl⟩
    | peer b => exact ⟨_, ⟨_, _, _, _, _, rfl⟩, .inl rfl⟩
    | tick n => exact ⟨_, ⟨_, _, _, _, _, rfl⟩, .inl rfl⟩

/-- One step: after a change outside the block, the block's step, nothing more, a host write, or reset (R20). -/
theorem step_cases (s : State) :
    ∃ s', OutsideOnly s s' ∧
      (step s = blockStep s' ∨ step s = .next s' ∨ (∃ off v, step s = .next (hostWrite hw off v s')) ∨
        step s = .next (resetBlock s')) := by
  have h0 := outsideOnly_takeAction s
  unfold step
  cases nextAction s with
  | block => exact ⟨_, h0, .inl rfl⟩
  | program =>
    obtain ⟨s', h, e⟩ := programStep_outside_or_write (takeAction s)
    refine ⟨s', h0.trans h, .inr ?_⟩
    rcases e with e | ⟨off, v, e⟩
    · exact .inl (by rw [← e]; rfl)
    · exact .inr (.inl ⟨off, v, by rw [← e]; rfl⟩)
  | peerByte b => exact ⟨_, h0.trans ⟨_, _, _, _, _, rfl⟩, .inr (.inl rfl)⟩
  | peerDrop i => exact ⟨_, h0.trans ⟨_, _, _, _, _, rfl⟩, .inr (.inl rfl)⟩
  | peerReady r => exact ⟨_, h0.trans ⟨_, _, _, _, _, rfl⟩, .inr (.inl rfl)⟩
  | tick d => exact ⟨_, h0.trans ⟨_, _, _, _, _, rfl⟩, .inr (.inl rfl)⟩
  | reset => exact ⟨_, h0, .inr (.inr (.inr rfl))⟩

/-- The block's act: none while idle, an illegal word's error, a command's first step, or a later phase (R21, R213, R219). -/
theorem blockStep_cases (s : State) :
    (s.status.busy = false ∧ blockStep s = .next s) ∨
    (∃ e, s.status.busy = true ∧ s.status.phase = .noPhase ∧ decodeWord s.cmd = .error e ∧
      blockStep s = .next (s.raise .illegalCommand e.info)) ∨
    (∃ i, s.status.busy = true ∧ s.status.phase = .noPhase ∧ decodeWord s.cmd = .ok i ∧ blockStep s = exec i s) ∨
    (s.status.busy = true ∧ s.status.phase ≠ .noPhase ∧ blockStep s = phaseStep hw (regField s.cmd) s) := by
  cases hb : s.status.busy with
  | false => exact .inl ⟨rfl, by simp [blockStep, hb]⟩
  | true =>
    by_cases hp : s.status.phase = .noPhase
    · cases hd : decodeWord s.cmd with
      | error e => exact .inr (.inl ⟨e, rfl, hp, rfl, by simp [blockStep, firstStep, hb, hp, hd]⟩)
      | ok i => exact .inr (.inr (.inl ⟨i, rfl, hp, rfl, by simp [blockStep, firstStep, hb, hp, hd]⟩))
    · exact .inr (.inr (.inr ⟨rfl, hp, by simp [blockStep, laterStep, hb, hp]⟩))

/-- A later step is a step of its phase, and there is none in phases 0, 1 and 6 (R213; log entry 8). -/
theorem phaseStep_cases (c : Config) (reg : Half) (s : State) :
    (s.status.phase = .send ∧ phaseStep c reg s = sendStep c s) ∨
    (s.status.phase = .recv ∧ phaseStep c reg s = .next (recvStep c s)) ∨
    (s.status.phase = .unstuff ∧ phaseStep c reg s = unstuffPhase c s) ∨
    (s.status.phase = .decode ∧ phaseStep c reg s = decodePhase c reg s) ∨
    ((s.status.phase = .noPhase ∨ s.status.phase = .build ∨ s.status.phase = .crc) ∧
      phaseStep c reg s = .fault (.noPhaseStep s.status.phase)) := by
  unfold phaseStep
  cases s.status.phase <;> simp

theorem exec_readreg_first {s : State} (hp : s.status.phase = .noPhase) (addr : Byte) (reg : Half) :
    exec (.readreg addr reg) s = .next (buildPhase hw addr reg s.setSeq) := if_pos hp

theorem exec_readreg_later {s : State} (hp : s.status.phase ≠ .noPhase) (addr : Byte) (reg : Half) :
    exec (.readreg addr reg) s = phaseStep hw reg s := if_neg hp

/-- An accepted length is the value written, which fits its capacity (R64). -/
theorem toNat_le_of_lengthOk {cap : Nat} {v : Word} (h : lengthOk cap v = true) :
    (v.setWidth 8 : Byte).toNat ≤ cap := by
  obtain ⟨h1, h2⟩ : v.toNat ≤ 0xFF ∧ v.toNat ≤ cap := by simpa [lengthOk] using h
  rw [BitVec.toNat_setWidth, Nat.mod_eq_of_lt (by omega)]
  exact h2

/-- A cell write has no effect or stores one byte inside its buffer (R64). -/
theorem writeWindow_cases (s : State) (b : Buffer) (i : Nat) (v : Word) :
    s.writeWindow hw b i v = s ∨
      ∃ b' i' x, i' < Buffer.cap hw b' ∧ s.writeWindow hw b i v = s.store b' i' [x] := by
  by_cases hi : i < Buffer.cap hw b
  · exact .inr ⟨b, i, _, hi, if_pos hi⟩
  · exact .inl (if_neg hi)

/-- A host write while idle is accepted as a command, has no effect, is refused, sets a length within its capacity, or stores one byte inside a buffer (R62 to R64). -/
theorem idleWrite_cases (n : Nat) (v : Word) (s : State) :
    idleWrite hw n v s = acceptCommand v s ∨ idleWrite hw n v s = s.reject ∨
    (∃ k : Byte, k.toNat ≤ hw.rawCap ∧ idleWrite hw n v s = s.setRawLen k) ∨
    (∃ k : Byte, k.toNat ≤ hw.msgCap ∧ idleWrite hw n v s = s.setMsgLen k) ∨
    (idleWrite hw n v s = s ∨ ∃ b i x, i < Buffer.cap hw b ∧ idleWrite hw n v s = s.store b i [x]) := by
  unfold idleWrite
  split
  · exact .inl rfl
  split
  · split
    · exact .inr (.inr (.inl ⟨_, toNat_le_of_lengthOk ‹_›, rfl⟩))
    · exact .inr (.inl rfl)
  split
  · split
    · exact .inr (.inr (.inr (.inl ⟨_, toNat_le_of_lengthOk ‹_›, rfl⟩)))
    · exact .inr (.inl rfl)
  split
  · exact .inr (.inr (.inr (.inr (writeWindow_cases s .raw _ v))))
  · exact .inr (.inr (.inr (.inr (writeWindow_cases s .msg _ v))))

/-- A host write has no effect, is refused, or happens while idle (R62, R63, R65). -/
theorem hostWrite_cases (off : Byte) (v : Word) (s : State) :
    hostWrite hw off v s = s ∨ hostWrite hw off v s = s.reject ∨
    (s.status.busy = false ∧ hostWrite hw off v s = idleWrite hw off.toNat v s) := by
  unfold hostWrite
  split
  · cases hb : s.status.busy with
    | true => exact .inr (.inl rfl)
    | false => exact .inr (.inr ⟨rfl, rfl⟩)
  · exact .inl rfl

end Sys2Proof.Proofs.Steps
end

section
/-! The bounds of the registers and the form of the storage after one step (spec 10_state.md R52, R35, R39, R44). -/

namespace Sys2Proof.Proofs.DataBounds

open Sys2Proof Sys2Proof.Machine Sys2Proof.Proofs.Steps

/-- The reset registers meet the bounds (R260). -/
theorem dataInv_reset : State.reset.DataInv := by
  refine ⟨rfl, ?_, by decide, by decide, by decide, by decide, by decide, by decide, ?_⟩
  · intro x hx
    cases hx
  · intro i hi
    cases hi

/-- A store inside a buffer keeps the bounds (R35). -/
theorem dataInv_store {s : State} (h : s.DataInv) {b : Buffer} {i : Nat} {bytes : List Byte}
    (hb : i + bytes.length ≤ b.cap hw) : (s.store b i bytes).DataInv where
  memWf := wf_writeBytes _ _ _ h.memWf
  memMapped := store_mapped h.memMapped hb
  txLen := h.txLen
  txIdx := h.txIdx
  rawLen := h.rawLen
  msgLen := h.msgLen
  expRange := h.expRange
  escCnt := h.escCnt
  frameWritten := written_store hb h.frameWritten

theorem dataInv_setRawLen {s : State} (h : s.DataInv) {n : Byte} (hn : n.toNat ≤ hw.rawCap) :
    (s.setRawLen n).DataInv := { h with rawLen := hn }

theorem dataInv_setMsgLen {s : State} (h : s.DataInv) {n : Byte} (hn : n.toNat ≤ hw.msgCap) :
    (s.setMsgLen n).DataInv := { h with msgLen := hn }

/-- A host write keeps the bounds (R64). -/
theorem dataInv_hostWrite {s : State} (h : s.DataInv) (off : Byte) (v : Word) : (hostWrite hw off v s).DataInv := by
  have hrej : s.reject.DataInv := h.congr rfl rfl rfl rfl rfl rfl rfl
  rcases hostWrite_cases off v s with e | e | ⟨-, e⟩ <;> rw [e]
  · exact h
  · exact hrej
  · rcases idleWrite_cases off.toNat v s with
      e | e | ⟨k, hk, e⟩ | ⟨k, hk, e⟩ | e | ⟨b, i, x, hi, e⟩ <;> rw [e]
    · exact h.congr rfl rfl rfl rfl rfl rfl rfl
    · exact hrej
    · exact dataInv_setRawLen h hk
    · exact dataInv_setMsgLen h hk
    · exact h
    · exact dataInv_store h hi

/-- A later step of a command keeps the bounds (R213). -/
theorem dataInv_phaseStep {s t : State} {reg : Half} (h : s.DataInv) (ht : phaseStep hw reg s = .next t) :
    t.DataInv := by
  rcases phaseStep_cases hw reg s with ⟨-, e⟩ | ⟨-, e⟩ | ⟨-, e⟩ | ⟨-, e⟩ | ⟨-, e⟩ <;> rw [e] at ht
  · exact h.sendStep_inv ht
  · cases ht
    exact h.recvStep_inv
  · exact h.unstuffPhase_inv ht
  · exact h.decodePhase_inv ht
  · cases ht

/-- A step of any command, first or later, keeps the bounds. -/
theorem dataInv_exec {i : Instr} {s t : State} (h : s.DataInv) (ht : exec i s = .next t) : t.DataInv := by
  have hcrc : ∀ v, (((s.setPhase .crc).setCrc v).complete).DataInv := fun v => h.congr rfl rfl rfl rfl rfl rfl rfl
  cases i with
  | nop => cases ht; exact h.complete
  | crcclr => cases ht; exact hcrc _
  | crcbyte b => cases ht; exact hcrc _
  | crcmsg =>
    change crcMsgPhase hw s = .next t at ht
    rcases crcMsgPhase_cases hw s with ⟨bytes, -, e⟩ | ⟨i, -, -, e⟩ <;> rw [e] at ht <;> cases ht
    exact hcrc _
  | build addr reg => cases ht; exact h.buildPhase_inv addr reg
  | send => exact h.sendStep_inv ht
  | recv => cases ht; exact h.recvStep_inv
  | unstuff => exact h.unstuffPhase_inv ht
  | decode reg => exact h.decodePhase_inv ht
  | readreg addr reg =>
    by_cases hp : s.status.phase = .noPhase
    · rw [exec_readreg_first hp] at ht
      cases ht
      have hseq : s.setSeq.DataInv := h.congr rfl rfl rfl rfl rfl rfl rfl
      exact hseq.buildPhase_inv addr reg
    · rw [exec_readreg_later hp] at ht
      exact dataInv_phaseStep h ht

/-- A block step keeps the bounds (R213). -/
theorem dataInv_blockStep {s t : State} (h : s.DataInv) (ht : blockStep s = .next t) : t.DataInv := by
  rcases blockStep_cases s with ⟨-, e⟩ | ⟨e', -, -, -, e⟩ | ⟨i, -, -, -, e⟩ | ⟨-, -, e⟩ <;> rw [e] at ht
  · cases ht; exact h
  · cases ht; exact h.raise _ _
  · exact dataInv_exec h ht
  · exact dataInv_phaseStep h ht

theorem dataInv_step {s t : State} (h : s.DataInv) (ht : step s = .next t) : t.DataInv := by
  obtain ⟨s', ho, e | e | ⟨off, v, e⟩ | e⟩ := step_cases s <;> rw [e] at ht
  · exact dataInv_blockStep (ho.dataInv h) ht
  · cases ht; exact ho.dataInv h
  · cases ht; exact dataInv_hostWrite (ho.dataInv h) off v
  · cases ht; exact dataInv_reset.congr rfl rfl rfl rfl rfl rfl rfl

/-- Settles O53, by the cases of a step: the block's phases, the host's writes, reset, and what is outside the block. -/
theorem dataBoundsKeptByEveryStep : Obligations.DataBoundsKeptByEveryStep :=
  fun _ _ => dataInv_step

end Sys2Proof.Proofs.DataBounds
end

section
/-! The sequencing facts after one step (spec 10_state.md R52; 45_transaction.md R213, R214; 60_exceptions.md R235). -/

namespace Sys2Proof.Proofs.Sequencing

open Sys2Proof Sys2Proof.Machine Sys2Proof.Proofs.Steps

/-- The reset registers are idle without an error (R260). -/
theorem sequencerInv_reset : State.reset.SequencerInv :=
  State.SequencerInv.idle' rfl rfl rfl rfl fun h => absurd h (by decide)

/-- An idle block's facts speak of STATUS, ENTRY and CMD only. -/
theorem sequencerInv_of_idle {s t : State} (h : s.SequencerInv) (hb : s.status.busy = false)
    (h1 : t.status = s.status) (h2 : t.entry = s.entry) (h3 : t.cmd = s.cmd) : t.SequencerInv := by
  obtain ⟨he, hs⟩ := h.idle hb
  apply State.SequencerInv.idle'
  · rw [h1, hb]
  · rw [h2, he]
  · rw [h1, hs]
  · rw [h1]; exact h.record
  · rw [h1, h3]; exact h.vvIdle hb

/-- REJ is no part of the sequencing facts (R63). -/
theorem sequencerInv_reject {s : State} (h : s.SequencerInv) : s.reject.SequencerInv :=
  { h with }

/-- An accepted command waits for its first step, with VV cleared where it is DECODE or READREG (R212). -/
theorem sequencerInv_acceptCommand (w : Word) (s : State) : (acceptCommand w s).SequencerInv := by
  constructor <;> simp +contextual [errorRecord]

/-- A host write keeps the sequencing facts (R62 to R64). -/
theorem sequencerInv_hostWrite {s : State} (h : s.SequencerInv) (off : Byte) (v : Word) :
    (hostWrite hw off v s).SequencerInv := by
  rcases hostWrite_cases off v s with e | e | ⟨hb, e⟩ <;> rw [e]
  · exact h
  · exact sequencerInv_reject h
  · rcases idleWrite_cases off.toNat v s with
      e | e | ⟨k, -, e⟩ | ⟨k, -, e⟩ | e | ⟨b, i, x, -, e⟩ <;> rw [e]
    · exact sequencerInv_acceptCommand v s
    · exact sequencerInv_reject h
    · exact sequencerInv_of_idle h hb rfl rfl rfl
    · exact sequencerInv_of_idle h hb rfl rfl rfl
    · exact h
    · exact sequencerInv_of_idle h hb rfl rfl rfl

/-- A busy block has no INFO, because it has no error (R231). -/
theorem info_eq_zero_of_busy {s : State} (h : s.SequencerInv) (hb : s.status.busy = true) : s.status.info = 0 := by
  have hr := h.record
  rw [h.clean hb] at hr
  simpa [errorRecord] using hr

/-- What the first phase of a command other than READREG relies on (R213). -/
theorem running_of_first {s : State} {i : Instr} {p : Phase} (h : s.SequencerInv) (hb : s.status.busy = true)
    (hp : s.status.phase = .noPhase) (hd : decodeWord s.cmd = .ok i) (hv : isDecoder i = (p == .decode))
    (hs : p = .send → i = .send) (hr : p = .recv → i = .recv) : Running s p i where
  busy := hb
  cmd := hd
  kind := .inr ⟨(h.fresh hb hp).2, hv, hs, hr⟩
  err := h.clean hb
  info := info_eq_zero_of_busy h hb
  vv := h.vvBusy hb

/-- What READREG's BUILD phase relies on (R213). -/
theorem running_of_first_readreg {s : State} {addr : Byte} {reg : Half} (h : s.SequencerInv)
    (hb : s.status.busy = true) (hd : decodeWord s.cmd = .ok (.readreg addr reg)) :
    Running s.setSeq .build (.readreg addr reg) where
  busy := hb
  cmd := hd
  kind := .inl ⟨rfl, addr, reg, rfl⟩
  err := h.clean hb
  info := show s.status.info = 0 from info_eq_zero_of_busy h hb
  vv := h.vvBusy hb

/-- What a later phase relies on: it belongs to the READREG, SEND or RECV in CMD (R210, R213). -/
theorem running_of_later {s : State} (h : s.SequencerInv) (hb : s.status.busy = true)
    (hp : s.status.phase ≠ .noPhase) : ∃ i, Running s s.status.phase i := by
  have hi := info_eq_zero_of_busy h hb
  rcases h.later hb hp with ⟨hs, ⟨addr, reg, hd⟩, -⟩ | ⟨hs, hd, hp'⟩ | ⟨hs, hd, hp'⟩
  · exact ⟨_, hb, hd, .inl ⟨hs, addr, reg, rfl⟩, h.clean hb, hi, h.vvBusy hb⟩
  · rw [hp']
    exact ⟨_, hb, hd, .inr ⟨hs, rfl, fun _ => rfl, nofun⟩, h.clean hb, hi, h.vvBusy hb⟩
  · rw [hp']
    exact ⟨_, hb, hd, .inr ⟨hs, rfl, nofun, fun _ => rfl⟩, h.clean hb, hi, h.vvBusy hb⟩

/-- A later step of a command keeps the sequencing facts (R213, R214). -/
theorem sequencerInv_phaseStep {s t : State} {reg : Half} (h : s.SequencerInv) (hb : s.status.busy = true)
    (hp : s.status.phase ≠ .noPhase) (ht : phaseStep hw reg s = .next t) : t.SequencerInv := by
  obtain ⟨i, hr⟩ := running_of_later h hb hp
  rcases phaseStep_cases hw reg s with ⟨hp', e⟩ | ⟨hp', e⟩ | ⟨hp', e⟩ | ⟨hp', e⟩ | ⟨-, e⟩ <;> rw [e] at ht
  · exact inv_send (hp' ▸ hr) (h.sendIndex hb hp') ht
  · cases ht
    exact inv_recv (hp' ▸ hr) (h.rawWritten hb hp')
  · exact inv_unstuff (hp' ▸ hr) ht
  · exact inv_decode (hp' ▸ hr) ht
  · cases ht

/-- A command that is not DECODE or READREG leaves VV as it was, so its completion asks nothing of VV (R212). -/
theorem sequencerInv_complete_of_not_decoder {s : State} {i : Instr} (hd : decodeWord s.cmd = .ok i)
    (hi : isDecoder i = false) : s.complete.SequencerInv := by
  refine inv_complete fun hv => ?_
  rw [clearsVv_of_decode hd, hi] at hv
  cases hv

/-- The first step of a command keeps the sequencing facts (R213). -/
theorem sequencerInv_exec_first {s t : State} {i : Instr} (h : s.SequencerInv) (hb : s.status.busy = true)
    (hp : s.status.phase = .noPhase) (hd : decodeWord s.cmd = .ok i) (ht : exec i s = .next t) :
    t.SequencerInv := by
  have hcrc : isDecoder i = false → ∀ v, (((s.setPhase .crc).setCrc v).complete).SequencerInv :=
    fun hi v => sequencerInv_complete_of_not_decoder (s := (s.setPhase .crc).setCrc v) hd hi
  have hentry : s.entry ≠ false := by rw [(h.fresh hb hp).1]; decide
  have hrun := fun p => running_of_first (p := p) h hb hp hd
  cases i with
  | nop => cases ht; exact sequencerInv_complete_of_not_decoder hd rfl
  | crcclr => cases ht; exact hcrc rfl _
  | crcbyte b => cases ht; exact hcrc rfl _
  | crcmsg =>
    change crcMsgPhase hw s = .next t at ht
    rcases crcMsgPhase_cases hw s with ⟨bytes, -, e⟩ | ⟨i, -, -, e⟩ <;> rw [e] at ht <;> cases ht
    exact hcrc rfl _
  | build addr reg => cases ht; exact inv_build (hrun .build rfl nofun nofun) addr reg
  | send => exact inv_send (hrun .send rfl (fun _ => rfl) nofun) (fun he => absurd he hentry) ht
  | recv => cases ht; exact inv_recv (hrun .recv rfl nofun fun _ => rfl) fun he => absurd he hentry
  | unstuff => exact inv_unstuff (hrun .unstuff rfl nofun nofun) ht
  | decode reg => exact inv_decode (hrun .decode rfl nofun nofun) ht
  | readreg addr reg =>
    rw [exec_readreg_first hp] at ht
    cases ht
    exact inv_build (running_of_first_readreg h hb hd) addr reg

/-- An illegal word's error record belongs to PHASE 0 (R219, R231). -/
theorem errorRecord_illegal (e : DecodeError) : errorRecord .illegalCommand e.info .noPhase = true := by
  cases e <;> rfl

/-- A block step keeps the sequencing facts (R213). -/
theorem sequencerInv_blockStep {s t : State} (h : s.SequencerInv) (ht : blockStep s = .next t) :
    t.SequencerInv := by
  rcases blockStep_cases s with ⟨-, e⟩ | ⟨e', hb, hp, -, e⟩ | ⟨i, hb, hp, hd, e⟩ | ⟨hb, hp, e⟩ <;> rw [e] at ht
  · cases ht; exact h
  · cases ht
    exact inv_raise (hp ▸ errorRecord_illegal e') (by decide) (h.vvBusy hb)
  · exact sequencerInv_exec_first h hb hp hd ht
  · exact sequencerInv_phaseStep h hb hp ht

theorem sequencerInv_step {s t : State} (h : s.SequencerInv) (ht : step s = .next t) : t.SequencerInv := by
  obtain ⟨s', ho, e | e | ⟨off, v, e⟩ | e⟩ := step_cases s <;> rw [e] at ht
  · exact sequencerInv_blockStep (ho.sequencerInv h) ht
  · cases ht; exact ho.sequencerInv h
  · cases ht; exact sequencerInv_hostWrite (ho.sequencerInv h) off v
  · cases ht; exact sequencerInv_reset.congr ⟨rfl, rfl, rfl, rfl, rfl, rfl, rfl, rfl⟩

/-- Settles O54, by the cases of a step; a busy block's phase belongs to the command in CMD (`running_of_later`). -/
theorem sequencerFactsKeptByEveryStep : Obligations.SequencerFactsKeptByEveryStep :=
  fun _ _ => sequencerInv_step

/-- Settles O52. -/
theorem invariantsAtReset : Obligations.InvariantsAtReset :=
  ⟨DataBounds.dataInv_reset, sequencerInv_reset⟩

/-- Settles O56: R52's bounds are clauses of the two invariants, which the step keeps. -/
theorem boundsOfR52HoldAfterEveryStep : Obligations.BoundsOfR52HoldAfterEveryStep := by
  intro s t hd hs ht
  have hd' := DataBounds.dataInv_step hd ht
  have hs' := sequencerInv_step hs ht
  exact ⟨⟨hd'.txIdx, hd'.txLen⟩, hd'.rawLen, hd'.msgLen, t.crc.isLt, hd'.expRange, hs'.idle⟩

end Sys2Proof.Proofs.Sequencing
end

section
/-! Where a step can stop (spec 10_state.md R37; 45_transaction.md R213): only at a cell that has not been written since reset. -/

namespace Sys2Proof.Proofs.Stops

open Sys2Proof Sys2Proof.Machine Sys2Proof.Proofs.Steps

/-- The step answers a next state. -/
def GoesOn (r : StepResult) : Prop := ∃ t, r = .next t

/-- The step is the fault of CRCMSG, DECODE or UNSTUFF at an unwritten cell below the length register (R37). -/
def StopsAtUnwritten (s : State) (r : StepResult) : Prop :=
  ∃ (b : Buffer) (i : Nat), r = .fault (.unwrittenCell b i) ∧ s.cell hw b i = none ∧
    ((b = .msg ∧ i < s.msgLen.toNat ∧ (decodeWord s.cmd = .ok .crcmsg ∨ ∃ reg, decodeWord s.cmd = .ok (.decode reg))) ∨
      (b = .raw ∧ i < s.rawLen.toNat ∧ decodeWord s.cmd = .ok .unstuff))

theorem stopsAtUnwritten_of_outsideOnly {s t : State} {r : StepResult} (h : OutsideOnly s t)
    (hr : StopsAtUnwritten t r) : StopsAtUnwritten s r := by
  obtain ⟨e, prog, acts, log, n, rfl⟩ := h
  exact hr

/-- No unwritten cell lies below a length whose cells have all been written. -/
theorem not_lt_of_cell_none {s : State} {b : Buffer} {n i : Nat} (h : s.written b n) (hc : s.cell hw b i = none) :
    ¬i < n := by
  intro hi
  have := h i hi
  rw [hc] at this
  cases this

/-- A SEND step never stops: TX_IDX stays within TX_LEN, and every TXBUF cell below TX_LEN has been written (R52). -/
theorem sendStep_goesOn {s : State} (h : s.DataInv) : GoesOn (sendStep hw s) := by
  rcases sendStep_cases hw s with ⟨-, e⟩ | ⟨-, -, e⟩ | ⟨b, -, -, -, e⟩ | ⟨hne, -, hc, -⟩
  · exact ⟨_, e⟩
  · exact ⟨_, e⟩
  · exact ⟨_, e⟩
  · have hle : s.sendEntry.txIdx.toNat ≤ s.txLen.toNat := by simpa using h.sendEntry.txIdx
    have hne' : s.sendEntry.txIdx.toNat ≠ s.txLen.toNat := fun x => hne (BitVec.eq_of_toNat_eq x)
    exact absurd (show s.sendEntry.txIdx.toNat < s.txLen.toNat by omega) (not_lt_of_cell_none h.frameWritten hc)

/-- An UNSTUFF step goes on, or faults at an unwritten raw cell below RAW_LEN (R167). -/
theorem unstuffPhase_stop (s : State) :
    GoesOn (unstuffPhase hw s) ∨
      ∃ i < s.rawLen.toNat, s.cell hw .raw i = none ∧ unstuffPhase hw s = .fault (.unwrittenCell .raw i) := by
  rcases unstuffPhase_cases hw s with ⟨i, hp, e⟩ | ⟨p, -, e⟩ | ⟨p, -, e⟩
  · obtain ⟨-, hcell⟩ := unstuffPass_unwritten _ _ _ _ _ hp
    have hi : i < s.rawLen.toNat := by
      have := (List.getElem?_eq_some_iff.1 hcell).1
      simpa using this
    rw [Nat.sub_zero, cells_getElem? _ _ _ _ _ _ hi, Nat.zero_add, Option.some.injEq] at hcell
    exact .inr ⟨i, hi, hcell, e⟩
  · exact .inl ⟨_, e⟩
  · exact .inl ⟨_, e⟩

/-- A DECODE step goes on, or faults at an unwritten message cell below MSG_LEN (R192). -/
theorem decodePhase_stop (reg : Half) (s : State) :
    GoesOn (decodePhase hw reg s) ∨
      ∃ i < s.msgLen.toNat, s.cell hw .msg i = none ∧ decodePhase hw reg s = .fault (.unwrittenCell .msg i) := by
  rcases decodePhase_cases hw reg s with ⟨k, n, -, -, e⟩ | ⟨n, se, bytes, e⟩ | ⟨i, hi, hc, e⟩
  · exact .inl ⟨_, e⟩
  · exact .inl ⟨_, e⟩
  · exact .inr ⟨i, hi, hc, e⟩

/-- The phases a later step can start in (R213). -/
theorem phase_of_laterPhase {s : State} (h : s.laterPhase) :
    s.status.phase = .send ∨ s.status.phase = .recv ∨ s.status.phase = .unstuff ∨ s.status.phase = .decode := by
  rcases h with ⟨-, -, h⟩ | ⟨-, -, h⟩ | ⟨-, -, h⟩
  · exact h
  · exact .inl h
  · exact .inr (.inl h)

/-- A later step never stops: PHASE is one of 2 to 5, and what it reads its command has written (R213). -/
theorem phaseStep_goesOn {s : State} (hd : s.DataInv) (hs : s.SequencerInv) (hb : s.status.busy = true)
    (hp : s.status.phase ≠ .noPhase) (reg : Half) : GoesOn (phaseStep hw reg s) := by
  rcases phaseStep_cases hw reg s with ⟨-, e⟩ | ⟨-, e⟩ | ⟨hp', e⟩ | ⟨hp', e⟩ | ⟨hp', -⟩
  · rw [e]; exact sendStep_goesOn hd
  · exact ⟨_, e⟩
  · rw [e]
    rcases unstuffPhase_stop s with hn | ⟨i, hi, hc, -⟩
    · exact hn
    · exact absurd hi (not_lt_of_cell_none (hs.rawReady hb hp') hc)
  · rw [e]
    rcases decodePhase_stop reg s with hn | ⟨i, hi, hc, -⟩
    · exact hn
    · exact absurd hi (not_lt_of_cell_none (hs.msgReady hb hp') hc)
  · rcases phase_of_laterPhase (hs.later hb hp) with hl | hl | hl | hl <;> simp [hl] at hp'

/-- The first step of the command in CMD goes on or stops at an unwritten cell (R37, R213). -/
theorem exec_first_stop {s : State} {i : Instr} (h : s.DataInv) (hp : s.status.phase = .noPhase)
    (hd : decodeWord s.cmd = .ok i) : GoesOn (exec i s) ∨ StopsAtUnwritten s (exec i s) := by
  cases i with
  | nop | crcclr | crcbyte _ | build _ _ | recv => exact .inl ⟨_, rfl⟩
  | crcmsg =>
    rcases crcMsgPhase_cases hw s with ⟨bytes, -, e⟩ | ⟨i, hi, hc, e⟩
    · exact .inl ⟨_, e⟩
    · exact .inr ⟨.msg, i, e, hc, .inl ⟨rfl, hi, .inl hd⟩⟩
  | send => exact .inl (sendStep_goesOn h)
  | unstuff =>
    rcases unstuffPhase_stop s with hn | ⟨i, hi, hc, e⟩
    · exact .inl hn
    · exact .inr ⟨.raw, i, e, hc, .inr ⟨rfl, hi, hd⟩⟩
  | decode reg =>
    rcases decodePhase_stop reg s with hn | ⟨i, hi, hc, e⟩
    · exact .inl hn
    · exact .inr ⟨.msg, i, e, hc, .inl ⟨rfl, hi, .inr ⟨reg, hd⟩⟩⟩
  | readreg addr reg => exact .inl ⟨_, exec_readreg_first hp addr reg⟩

/-- A block step goes on or stops at an unwritten cell (R37). -/
theorem blockStep_stop {s : State} (hd : s.DataInv) (hs : s.SequencerInv) :
    GoesOn (blockStep s) ∨ StopsAtUnwritten s (blockStep s) := by
  rcases blockStep_cases s with ⟨-, e⟩ | ⟨e', -, -, -, e⟩ | ⟨i, -, hp, hi, e⟩ | ⟨hb, hp, e⟩ <;> rw [e]
  · exact .inl ⟨_, rfl⟩
  · exact .inl ⟨_, rfl⟩
  · exact exec_first_stop hd hp hi
  · exact .inl (phaseStep_goesOn hd hs hb hp _)

/-- Settles O55: only the block's step can stop, and there only the first step of CRCMSG, DECODE or UNSTUFF. -/
theorem onlyUnwrittenCellsStopAStep : Obligations.OnlyUnwrittenCellsStopAStep := by
  intro s hd hs
  obtain ⟨s', ho, e | e | ⟨off, v, e⟩ | e⟩ := step_cases s
  · rw [e]
    exact (blockStep_stop (ho.dataInv hd) (ho.sequencerInv hs)).imp_right (stopsAtUnwritten_of_outsideOnly ho)
  · exact .inl ⟨_, e⟩
  · exact .inl ⟨_, e⟩
  · exact .inl ⟨_, e⟩

end Sys2Proof.Proofs.Stops
end

section
/-! Who writes the result registers and VV (spec 10_state.md R48, R43). -/

namespace Sys2Proof.Proofs.Result

open Sys2Proof Sys2Proof.Machine Sys2Proof.Proofs.Steps

/-- MANT, EXP, SGN, SE_RAW, NLEN, VALUE and VV stay. -/
def KeepsResult (s t : State) : Prop := t.result = s.result ∧ t.status.vv = s.status.vv

theorem keepsResult_buildPhase (addr : Byte) (reg : Half) (s : State) :
    KeepsResult s (buildPhase hw addr reg s) := by
  rcases buildPhase_cases hw addr reg s with ⟨-, e⟩ | ⟨-, e⟩ <;> rw [e] <;> simp [KeepsResult]

theorem keepsResult_afterEmit (s : State) : KeepsResult s s.afterEmit := by
  rcases afterEmit_cases s with ⟨-, e⟩ | ⟨-, e⟩ <;> rw [e] <;> simp [KeepsResult]

theorem keepsResult_sendStep {s t : State} (ht : sendStep hw s = .next t) : KeepsResult s t := by
  rcases sendStep_cases hw s with ⟨-, e⟩ | ⟨-, -, e⟩ | ⟨b, -, -, -, e⟩ | ⟨-, -, -, e⟩ <;> rw [e] at ht <;> cases ht
  · simp [KeepsResult]
  · simp [KeepsResult]
  · simpa [KeepsResult] using keepsResult_afterEmit (s.sendEntry.emit b)

theorem keepsResult_rxWait (s : State) : KeepsResult s (rxWait hw s) := by
  rcases rxWait_cases hw s with
    ⟨-, e⟩ | ⟨-, -, e⟩ | ⟨rest, -, -, e⟩ | ⟨b, rest, -, -, -, -, e⟩ | ⟨b, rest, -, -, -, -, e⟩ <;> rw [e]
  · simp [KeepsResult]
  · simp [KeepsResult]
  · simp [KeepsResult]
  · simp [KeepsResult]
  · split <;> simp [KeepsResult]

theorem keepsResult_recvStep (s : State) : KeepsResult s (recvStep hw s) := by
  unfold recvStep
  split
  · simp [KeepsResult]
  · exact keepsResult_rxWait s

theorem keepsResult_checkCrc (s : State) (msg : List Byte) : KeepsResult s (s.checkCrc msg) := by
  rcases checkCrc_cases s msg with ⟨-, e⟩ | ⟨-, e⟩ <;> rw [e] <;> simp [KeepsResult]

theorem keepsResult_unstuffPhase {s t : State} (ht : unstuffPhase hw s = .next t) : KeepsResult s t := by
  rcases unstuffPhase_cases hw s with ⟨i, -, e⟩ | ⟨p, -, e⟩ | ⟨p, -, e⟩ <;> rw [e] at ht <;> cases ht
  · simp [KeepsResult]
  · simpa [KeepsResult] using keepsResult_checkCrc ((s.setPhase .unstuff).keepPass p) p.msg

/-- The DECODE phase is READREG's last, so its end is the command's (R214). -/
theorem phaseDone_of_decode {s : State} (h : s.status.phase = .decode) : s.phaseDone = s.complete := by
  rcases phaseDone_cases s with ⟨-, e⟩ | ⟨p, -, hf, -⟩ | ⟨-, -, e⟩
  · exact e
  · rw [h] at hf
    cases hf
  · exact e

/-- A DECODE phase keeps the result at an error and ends with VV set and no error otherwise (R192). -/
theorem decodePhase_result {s t : State} {reg : Half} (ht : decodePhase hw reg s = .next t) :
    KeepsResult s t ∨ (t.status.vv = true ∧ t.status.phase = .decode ∧ t.status.err = .ok) := by
  rcases decodePhase_cases hw reg s with ⟨k, n, -, -, e⟩ | ⟨n, se, bytes, e⟩ | ⟨i, -, -, e⟩ <;> rw [e] at ht <;> cases ht
  · exact .inl (by simp [KeepsResult])
  · rw [phaseDone_of_decode rfl]
    exact .inr ⟨rfl, rfl, rfl⟩

/-- A later step keeps the result, or is a DECODE phase that succeeds (R48). -/
theorem phaseStep_result {s t : State} {reg : Half} (ht : phaseStep hw reg s = .next t) :
    KeepsResult s t ∨
      (s.status.phase = .decode ∧ t.status.vv = true ∧ t.status.phase = .decode ∧ t.status.err = .ok) := by
  rcases phaseStep_cases hw reg s with ⟨-, e⟩ | ⟨-, e⟩ | ⟨-, e⟩ | ⟨hp, e⟩ | ⟨-, e⟩ <;> rw [e] at ht
  · exact .inl (keepsResult_sendStep ht)
  · cases ht
    exact .inl (keepsResult_recvStep s)
  · exact .inl (keepsResult_unstuffPhase ht)
  · exact (decodePhase_result ht).imp_right fun h => ⟨hp, h⟩
  · cases ht

/-- Settles O58, by the command and, for READREG, its phase. -/
theorem onlyDecodeWritesTheResult : Obligations.OnlyDecodeWritesTheResult := by
  intro i s t ht
  cases i with
  | nop | crcclr | crcbyte _ => cases ht; exact .inl ⟨rfl, rfl⟩
  | crcmsg =>
    change crcMsgPhase hw s = .next t at ht
    rcases crcMsgPhase_cases hw s with ⟨bytes, -, e⟩ | ⟨i, -, -, e⟩ <;> rw [e] at ht <;> cases ht
    exact .inl ⟨rfl, rfl⟩
  | build addr reg => cases ht; exact .inl (keepsResult_buildPhase addr reg s)
  | send => exact .inl (keepsResult_sendStep ht)
  | recv => cases ht; exact .inl (keepsResult_recvStep s)
  | unstuff => exact .inl (keepsResult_unstuffPhase ht)
  | decode reg =>
    refine (decodePhase_result ht).imp_right ?_
    rintro ⟨hvv, hph, herr⟩
    exact ⟨hvv, hph, herr, reg, .inl rfl⟩
  | readreg addr reg =>
    by_cases hp : s.status.phase = .noPhase
    · rw [exec_readreg_first hp] at ht
      cases ht
      exact .inl (keepsResult_buildPhase addr reg s.setSeq)
    · rw [exec_readreg_later hp] at ht
      refine (phaseStep_result ht).imp_right ?_
      rintro ⟨hdec, hvv, hph, herr⟩
      exact ⟨hvv, hph, herr, reg, .inr ⟨addr, rfl, hdec⟩⟩

end Sys2Proof.Proofs.Result
end

section
/-! The decoder reads back what the encoder writes (spec 30_encoding.md R81, R84). -/

namespace Sys2Proof.Proofs.Encoding

open Sys2Proof Sys2Proof.Machine Sys2Proof.Laws

/-- No two rows of the table have the same opcode (R83, R84). -/
theorem row_eq_of_opField_eq {r q : Row} (hr : r ∈ opcodeTable) (hq : q ∈ opcodeTable)
    (h : opField r.mtch = opField q.mtch) : r = q := by
  have hops : (opcodeTable.map fun x => opField x.mtch).Nodup := by decide
  exact List.inj_on_of_nodup_map hops hr hq h

/-- A word is read by the row it selects, which is the only one (R84). -/
theorem decodeWord_of_selects {r : Row} {w : Word} (hr : r ∈ opcodeTable) (hs : r.selects w = true) :
    decodeWord w = .ok (r.read w) := by
  unfold decodeWord
  cases hf : opcodeTable.find? (·.selects w) with
  | none => exact absurd hs (List.find?_eq_none.1 hf r hr)
  | some q =>
    have hq : q ∈ opcodeTable := List.mem_of_find?_eq_some hf
    have hqs : q.selects w = true := by simpa using List.find?_some hf
    have hop : opField r.mtch = opField q.mtch := by rw [← opField_of_selects hr hs, opField_of_selects hq hqs]
    rw [row_eq_of_opField_eq hr hq hop]

/-- The encoding of every command selects its row (R84). -/
theorem rowMatch (i : Instr) : RowMatch.Statement i := by
  cases i with
  | nop => exact RowMatch.nop
  | crcclr => exact RowMatch.crcclr
  | crcbyte b => exact RowMatch.crcbyte b
  | crcmsg => exact RowMatch.crcmsg
  | build addr reg => exact RowMatch.build addr reg
  | send => exact RowMatch.send
  | recv => exact RowMatch.recv
  | unstuff => exact RowMatch.unstuff
  | decode reg => exact RowMatch.decode reg
  | readreg addr reg => exact RowMatch.readreg addr reg

/-- The field `reg` is the low half of a command word (R81). -/
theorem regField_append (x : Half) (reg : Half) : regField (x ++ reg) = reg :=
  BitVec.extractLsb'_append_eq_right

/-- The field `addr` lies above `reg` (R81). -/
theorem addrField_append (x addr : Byte) (reg : Half) : addrField (x ++ addr ++ reg) = addr := by
  unfold addrField
  rw [BitVec.extractLsb'_append_eq_of_le (by decide)]
  exact BitVec.extractLsb'_append_eq_right

/-- The field `b` is the low byte of a command word (R81). -/
theorem byteField_append (x : Half) (y b : Byte) : byteField (x ++ (y ++ b)) = b := by
  unfold byteField
  rw [BitVec.extractLsb'_append_eq_of_add_le (by decide)]
  exact BitVec.extractLsb'_append_eq_right

/-- A command's row reads the command's operands out of its word (R81). -/
theorem read_encode {r : Row} {i : Instr} (h : opcodeTable[RowMatch.row i]? = some r) : r.read (encode i) = i := by
  cases i with
  | nop | crcclr | crcmsg | send | recv | unstuff => cases h; rfl
  | crcbyte b => cases h; exact congrArg Instr.crcbyte (byteField_append _ _ b)
  | decode reg => cases h; exact congrArg Instr.decode (regField_append _ reg)
  | build addr reg => cases h; exact congrArg₂ Instr.build (addrField_append _ addr reg) (regField_append _ reg)
  | readreg addr reg => cases h; exact congrArg₂ Instr.readreg (addrField_append _ addr reg) (regField_append _ reg)

theorem decodeWord_encode (i : Instr) : decodeWord (encode i) = .ok i := by
  obtain ⟨r, hr, hs⟩ := rowMatch i
  rw [decodeWord_of_selects (List.mem_of_getElem? hr) hs, read_encode hr]

end Sys2Proof.Proofs.Encoding
end

section
/-! Host writes (spec 20_memory.md R62 to R65): which are refused, which have no effect, and what an idle block does with the others. -/

namespace Sys2Proof.Proofs.HostWrites

open Sys2Proof Sys2Proof.Machine Sys2Proof.Proofs.Encoding

/-- The program's next statement is a host write, and then it is no longer there (R86). -/
theorem act_wr (s : State) (off : Byte) (v : Word) :
    act .program (s.beforeStmt (.wr off v)) = .next (hostWrite hw off v s) := rfl

theorem act_rd (s : State) (off : Byte) :
    act .program (s.beforeStmt (.rd off)) = .next (hostRead off s) := rfl

theorem step_wr {s : State} {off : Byte} {v : Word} {prog : List Stmt} {acts : List Action}
    (hp : s.program = .wr off v :: prog) (ha : s.script = .program :: acts) :
    step s = .next (hostWrite hw off v { s with program := prog, script := acts }) := by
  simp [step, nextAction, takeAction, act, programStep, runStmt, hp, ha]

/-- A block's act in PHASE 0 runs the command in CMD (R213). -/
theorem step_block_first {s : State} {i : Instr} {acts : List Action} (ha : s.script = .block :: acts)
    (hb : s.status.busy = true) (hp : s.status.phase = .noPhase) (hd : decodeWord s.cmd = .ok i) :
    step s = exec i { s with script := acts } := by
  simp [step, nextAction, takeAction, act, blockStep, firstStep, ha, hb, hp, hd]

/-! ## The offsets and BUSY -/

theorem writable_iff (off : Byte) :
    writable off.toNat = true ↔ off = 0x00 ∨ off = 0x07 ∨ off = 0x08 ∨ 0x80 ≤ off := by
  simp [writable, BitVec.le_def, BitVec.toNat_eq, or_assoc, show rawBase = 0x80 from rfl]

theorem hostWrite_of_not_writable {off : Byte} (h : writable off.toNat = false) (c : Config) (v : Word) (s : State) :
    hostWrite c off v s = s := by
  simp [hostWrite, h]

theorem hostWrite_of_busy {off : Byte} {s : State} (h : writable off.toNat = true) (hb : s.status.busy = true)
    (c : Config) (v : Word) : hostWrite c off v s = s.reject := by
  simp [hostWrite, h, hb]

theorem hostWrite_of_idle {off : Byte} {s : State} (h : writable off.toNat = true) (hb : s.status.busy = false)
    (c : Config) (v : Word) : hostWrite c off v s = idleWrite c off.toNat v s := by
  simp [hostWrite, h, hb]

/-- Settles O47: a read is `hostRead`, and the offsets of the second clause are not writable. -/
theorem hostReadHasNoSideEffect : Obligations.HostReadHasNoSideEffect := by
  refine ⟨fun s off => act_rd s off, fun s off v h0 h7 h8 hlt => ?_⟩
  have hw' : writable off.toNat = false := by
    rw [← Bool.not_eq_true, writable_iff, not_or, not_or, not_or]
    exact ⟨h0, h7, h8, BitVec.not_le.2 hlt⟩
  rw [act_wr, hostWrite_of_not_writable hw']

/-- Settles O48: the offsets are exactly the writable ones, and a busy block refuses a write to them. -/
theorem busyWriteOnlySetsRej : Obligations.BusyWriteOnlySetsRej := by
  intro s off v hb hoff
  rw [act_wr, hostWrite_of_busy ((writable_iff off).2 hoff) hb]
  rfl

/-! ## A command word -/

/-- An idle block accepts a word written to CMD (R62). -/
theorem hostWrite_cmd {s : State} (hb : s.status.busy = false) (c : Config) (w : Word) :
    hostWrite c 0x00 w s = acceptCommand w s :=
  hostWrite_of_idle rfl hb c w

/-- Settles O7: the write is accepted, and the accepted word decodes to the command (`decodeWord_encode`). -/
theorem writingACommandRunsIt : Obligations.WritingACommandRunsIt := by
  intro s i prog rest hb hp ha
  have haccept := hostWrite_cmd (s := { s with program := prog, script := .block :: rest }) hb hw (encode i)
  exact ⟨_, (step_wr hp ha).trans (congrArg _ haccept), step_block_first rfl rfl rfl (decodeWord_encode i)⟩

/-! ## Lengths and cells -/

/-- A length is accepted when the whole word is at most the capacity, which fits a byte (R64). -/
theorem lengthOk_eq {cap : Nat} (h : cap ≤ 0xFF) (v : Word) : lengthOk cap v = decide (v.toNat ≤ cap) := by
  rw [Bool.eq_iff_iff]
  simp only [lengthOk, Bool.and_eq_true, decide_eq_true_eq]
  omega

theorem hostWrite_rawLen {s : State} (hb : s.status.busy = false) (v : Word) :
    hostWrite hw 0x07 v s = if v.toNat ≤ 50 then s.setRawLen (v.setWidth 8) else s.reject := by
  have hok : lengthOk hw.rawCap v = decide (v.toNat ≤ 50) := lengthOk_eq (by decide) v
  rw [hostWrite_of_idle rfl hb]
  simp [idleWrite, hok]

theorem hostWrite_msgLen {s : State} (hb : s.status.busy = false) (v : Word) :
    hostWrite hw 0x08 v s = if v.toNat ≤ 40 then s.setMsgLen (v.setWidth 8) else s.reject := by
  have hok : lengthOk hw.msgCap v = decide (v.toNat ≤ 40) := lengthOk_eq (by decide) v
  rw [hostWrite_of_idle rfl hb]
  simp [idleWrite, hok]

/-- The offset of entry `i` of a window that starts at `base` (R61). -/
theorem toNat_offset {base : Byte} {i : Nat} (h : base.toNat + i < 256) :
    (base + BitVec.ofNat 8 i).toNat = base.toNat + i := by
  rw [BitVec.toNat_add, BitVec.toNat_ofNat, Nat.add_mod_mod, Nat.mod_eq_of_lt h]

/-- An idle block takes a write from 0x80 on as a cell write (R61, R64). -/
theorem hostWrite_cell {s : State} (hb : s.status.busy = false) (c : Config) {base : Byte} {i : Nat}
    (hbase : 0x80 ≤ base.toNat) (hi : base.toNat + i < 256) (v : Word) :
    hostWrite c (base + BitVec.ofNat 8 i) v s = idleWrite c (base.toNat + i) v s := by
  have hge : (0x80 : Byte).toNat ≤ (base + BitVec.ofNat 8 i).toNat := by rw [toNat_offset hi]; exact le_add_right hbase
  rw [hostWrite_of_idle ((writable_iff _).2 (.inr (.inr (.inr hge)))) hb, toNat_offset hi]

theorem idleWrite_raw (c : Config) {i : Nat} (hi : i < 64) (v : Word) (s : State) :
    idleWrite c (0x80 + i) v s = s.writeWindow c .raw i v := by
  have hmsg : 0x80 + i < msgBase := show 0x80 + i < 0xC0 by omega
  rw [idleWrite, if_neg (by omega), if_neg (by omega), if_neg (by omega), if_pos hmsg]
  exact congrArg (s.writeWindow c .raw · v) (Nat.add_sub_cancel_left ..)

theorem idleWrite_msg (c : Config) (i : Nat) (v : Word) (s : State) :
    idleWrite c (0xC0 + i) v s = s.writeWindow c .msg i v := by
  have hmsg : msgBase ≤ 0xC0 + i := Nat.le_add_right ..
  rw [idleWrite, if_neg (by omega), if_neg (by omega), if_neg (by omega), if_neg (Nat.not_lt.2 hmsg)]
  exact congrArg (s.writeWindow c .msg · v) (Nat.add_sub_cancel_left ..)

theorem hostWrite_raw {s : State} (hb : s.status.busy = false) (c : Config) {i : Nat} (hi : i < 64) (v : Word) :
    hostWrite c (0x80 + BitVec.ofNat 8 i) v s = s.writeWindow c .raw i v := by
  have hoff : (0x80 : Byte).toNat + i < 256 := show 0x80 + i < 256 by omega
  exact (hostWrite_cell hb c (by decide) hoff v).trans (idleWrite_raw c hi v s)

theorem hostWrite_msg {s : State} (hb : s.status.busy = false) (c : Config) {i : Nat} (hi : i < 64) (v : Word) :
    hostWrite c (0xC0 + BitVec.ofNat 8 i) v s = s.writeWindow c .msg i v := by
  have hoff : (0xC0 : Byte).toNat + i < 256 := show 0xC0 + i < 256 by omega
  exact (hostWrite_cell hb c (by decide) hoff v).trans (idleWrite_msg c i v s)

/-- A cell write below the capacity stores the low byte of the word there and changes nothing else (R64). -/
theorem writeWindow_of_lt {c : Config} {b : Buffer} {i : Nat} (hi : i < b.cap c) (s : State) (v : Word) :
    ∃ m : Memory, s.writeWindow c b i v = { s with mem := m } ∧
      Memory.read m (b.base + i) = some (v.setWidth 8) ∧
      ∀ x : Nat, x ≠ b.base + i → Memory.read m x = Memory.read s.mem x :=
  ⟨Memory.write s.mem (b.base + i) (v.setWidth 8), if_pos hi, read_write_same .., fun _ hx => read_write_other _ _ hx⟩

/-- A cell write at or above the capacity has no effect (R64). -/
theorem writeWindow_of_ge {c : Config} {b : Buffer} {i : Nat} (hi : b.cap c ≤ i) (s : State) (v : Word) :
    s.writeWindow c b i v = s :=
  if_neg (Nat.not_lt.2 hi)

/-- Settles O49: the two lengths, then each window below and above its capacity. -/
theorem idleWritesSetLengthsAndCells : Obligations.IdleWritesSetLengthsAndCells := by
  intro s v hb
  refine ⟨?_, ?_, fun i hi => ?_, fun i hi hi' => ?_, fun i hi => ?_, fun i hi hi' => ?_⟩
  · rw [act_wr, hostWrite_rawLen hb]; rfl
  · rw [act_wr, hostWrite_msgLen hb]; rfl
  · rw [act_wr, hostWrite_raw hb hw (by omega)]
    obtain ⟨m, hm, hcell, hother⟩ := writeWindow_of_lt (c := hw) (b := .raw) hi s v
    exact ⟨m, congrArg _ hm, hcell, hother⟩
  · rw [act_wr, hostWrite_raw hb hw hi', writeWindow_of_ge hi]
  · rw [act_wr, hostWrite_msg hb hw (by omega)]
    obtain ⟨m, hm, hcell, hother⟩ := writeWindow_of_lt (c := hw) (b := .msg) hi s v
    exact ⟨m, congrArg _ hm, hcell, hother⟩
  · rw [act_wr, hostWrite_msg hb hw hi', writeWindow_of_ge hi]

end Sys2Proof.Proofs.HostWrites
end

section
/-! Host reads (spec 20_memory.md R61): the numbers the composed words stand for, and what the buffer windows read. -/

namespace Sys2Proof.Proofs.HostReads

open Sys2Proof Sys2Proof.Machine

/-! ## Composed words -/

/-- Two fields side by side, as one number. -/
theorem toNat_append_eq_add {n m : Nat} (x : BitVec n) (y : BitVec m) :
    (x ++ y).toNat = 2 ^ m * x.toNat + y.toNat := by
  rw [BitVec.toNat_append, ← Nat.shiftLeft_add_eq_or_of_lt y.isLt, Nat.shiftLeft_eq, Nat.mul_comm]

theorem toNat_bit (b : Bool) : (bit b).toNat = b.toNat := BitVec.toNat_ofBool b

/-- STATUS, each field at its bit (R26). -/
theorem toNat_statusWord (t : Status) :
    t.word.toNat =
      t.busy.toNat + 2 * t.phase.code.toNat + 2 ^ 4 * t.seq.toNat + 2 ^ 8 * t.err.code.toNat +
        2 ^ 12 * t.info.toNat + 2 ^ 16 * t.vv.toNat + 2 ^ 17 * t.escw.toNat + 2 ^ 18 * t.rej.toNat := by
  simp only [Status.word, toNat_append_eq_add, toNat_bit, BitVec.toNat_ofNat]
  omega

/-- EXPSGN (R61). -/
theorem toNat_expsgn (r : Reading) :
    r.expsgn.toNat =
      2 ^ 24 * r.nLen.toNat + 2 ^ 16 * r.seRaw.toNat + 2 ^ 8 * r.sgn.toNat + r.exp.toNat := by
  simp only [Reading.expsgn, toNat_append_eq_add, toNat_bit, BitVec.toNat_ofNat]
  omega

/-- TXINFO and ESCINFO: two bytes under a zero half (R61). -/
theorem toNat_bytePair (x y : Byte) : (0#16 ++ x ++ y : Word).toNat = 2 ^ 8 * x.toNat + y.toNat := by
  simp only [toNat_append_eq_add, BitVec.toNat_ofNat]
  omega

/-! ## Buffer windows -/

/-- The offset after a buffer's window: the next window's start, or the end of the space (R61). -/
def windowEnd : Buffer → Nat
  | .req => txBase
  | .tx => rawBase
  | .raw => msgBase
  | .msg => 0x100

/-- From 0x10 on the host reads the buffers (R61). -/
theorem hostReadWord_buffers {off : Byte} (h : 0x10 ≤ off.toNat) (c : Config) (s : State) :
    hostReadWord c off s = s.bufferWord c off.toNat := by
  obtain ⟨k, hk⟩ := Nat.exists_eq_add_of_le' h
  unfold hostReadWord
  rw [hk]
  rfl

/-- In a buffer's window the host reads the buffer's entries (R61). -/
theorem hostReadWord_window {off : Byte} (b : Buffer) (hlo : b.base ≤ off.toNat) (hhi : off.toNat < windowEnd b)
    (c : Config) (s : State) : hostReadWord c off s = s.windowWord c b (off.toNat - b.base) := by
  have h10 : 0x10 ≤ b.base := by cases b <;> decide
  have htx : txBase ≤ rawBase := by decide
  have hraw : rawBase ≤ msgBase := by decide
  rw [hostReadWord_buffers (h10.trans hlo), State.bufferWord]
  cases b <;> simp only [Buffer.base, windowEnd] at hlo hhi ⊢
  case req => rw [if_pos hhi]
  case tx => rw [if_neg (by omega), if_pos hhi]
  case raw => rw [if_neg (by omega), if_neg (by omega), if_pos hhi]
  case msg => rw [if_neg (by omega), if_neg (by omega), if_neg (by omega)]

/-- At or above a buffer's capacity the host reads 0 (R61, R35). -/
theorem hostReadWord_above {c : Config} {off : Byte} (b : Buffer) (hlo : b.base + b.cap c ≤ off.toNat)
    (hhi : off.toNat < windowEnd b) (s : State) : hostReadWord c off s = 0 := by
  rw [hostReadWord_window b (by omega) hhi]
  exact if_neg (by omega)

/-- Every cell lies in its buffer's window (R8). -/
theorem base_add_cap_le_windowEnd (b : Buffer) : b.base + b.cap hw ≤ windowEnd b := by
  cases b <;> decide

/-- Below a buffer's capacity the host reads the cell (R61). -/
theorem hostReadWord_cell {off : Byte} (b : Buffer) (hlo : b.base ≤ off.toNat)
    (hhi : off.toNat < b.base + b.cap hw) (s : State) : hostReadWord hw off s = s.cellWord off.toNat := by
  rw [hostReadWord_window b hlo (hhi.trans_le (base_add_cap_le_windowEnd b)), State.windowWord,
    if_pos (by omega), Nat.add_sub_cancel' hlo]

/-- A written cell reads zero-extended (R61). -/
theorem cellWord_of_written {s : State} {a : Nat} {b : Byte} (h : Memory.read s.mem a = some b) :
    s.cellWord a = b.setWidth 32 := by
  simp [State.cellWord, h]

/-- An unwritten cell reads some byte zero-extended (R37). -/
theorem cellWord_of_unwritten {s : State} {a : Nat} (h : Memory.read s.mem a = none) :
    ∃ v : Byte, s.cellWord a = v.setWidth 32 :=
  ⟨Config.freeByte s.draws, by simp [State.cellWord, h]⟩

/-- The offsets of the cells are those of the four buffers below their capacities (R61). -/
theorem exists_buffer_of_offset {off : Byte}
    (h : (0x10 ≤ off ∧ off < 0x17) ∨ (0x40 ≤ off ∧ off < 0x54) ∨ (0x80 ≤ off ∧ off < 0xB2) ∨
      (0xC0 ≤ off ∧ off < 0xE8)) :
    ∃ b : Buffer, b.base ≤ off.toNat ∧ off.toNat < b.base + b.cap hw := by
  rcases h with h | h | h | h
  · exact ⟨.req, h⟩
  · exact ⟨.tx, h⟩
  · exact ⟨.raw, h⟩
  · exact ⟨.msg, h⟩

/-- Settles O50: the registers by their words, the reserved offsets by the end of their window, the cells by their buffer. -/
theorem registerMap : Obligations.RegisterMap := by
  intro s
  refine ⟨rfl, toNat_statusWord _, BitVec.toNat_setWidth_of_le (by decide), rfl, rfl, toNat_expsgn _, toNat_bytePair _ _,
    BitVec.toNat_setWidth_of_le (by decide), BitVec.toNat_setWidth_of_le (by decide), toNat_bytePair _ _, rfl, rfl, rfl, rfl, rfl, rfl,
    fun off hlo hhi => hostReadWord_above .req hlo hhi s, fun off h => ?_, fun off v h => ?_⟩
  · rcases h with ⟨hlo, hhi⟩ | ⟨hlo, hhi⟩ | hlo
    · exact hostReadWord_above (c := hw) (off := off) .tx hlo hhi s
    · exact hostReadWord_above (c := hw) (off := off) .raw hlo hhi s
    · exact hostReadWord_above (c := hw) (off := off) .msg hlo off.isLt s
  · obtain ⟨b, hlo, hhi⟩ := exists_buffer_of_offset h
    rw [hostReadWord_cell b hlo hhi]
    exact ⟨cellWord_of_written, cellWord_of_unwritten⟩

end Sys2Proof.Proofs.HostReads
end

section
/-! The decoder reads a command from no word but its encoding, and refuses every word outside the table (spec 30_encoding.md R84, R85). -/

namespace Sys2Proof.Proofs.Decoding

open Sys2Proof Sys2Proof.Machine Sys2Proof.Laws Sys2Proof.Proofs.Encoding

/-- A row is selected by its mask and match (R84). -/
theorem selects_iff (r : Row) (w : Word) : r.selects w = true ↔ w &&& r.mask = r.mtch := beq_iff_eq

/-! ## The word a row was selected by -/

/-- A word whose upper part is fixed by a mask is that part beside its own lower bits. -/
theorem append_low_of_and_upper {n m : Nat} {w : BitVec (n + m)} {c : BitVec n}
    (h : w &&& (BitVec.allOnes n ++ 0#m) = c ++ 0#m) : c ++ w.extractLsb' 0 m = w := by
  have hsplit : w.extractLsb' m n ++ w.extractLsb' 0 m = w := BitVec.extractLsb'_append_extractLsb'
  have hc : w.extractLsb' m n = c := by
    rw [← hsplit, RowMatch.and_upper, BitVec.append_left_inj] at h
    exact h
  rw [← hc, hsplit]

/-- A word whose opcode and reserved bits are fixed by a mask is those beside its fields `addr` and `reg` (R81). -/
theorem append_fields_of_and_opcode {w : Word} {c : BitVec 8} (h : w &&& 0xFF000000#32 = c ++ 0#24) :
    c ++ addrField w ++ regField w = w := by
  have hfields : addrField w ++ regField w = w.extractLsb' 0 24 :=
    BitVec.extractLsb'_append_extractLsb'_eq_extractLsb' rfl
  calc c ++ addrField w ++ regField w
      = c ++ (addrField w ++ regField w) := BitVec.append_assoc
    _ = w := by rw [hfields]; exact append_low_of_and_upper h

/-- A word that a mask fixes but for its low byte is the fixed bits beside its field `b` (R81). -/
theorem append_byte_of_and_upper {w : Word} {c : Half} (h : w &&& 0xFFFFFF00#32 = c ++ 0#16) :
    c ++ (0#8 ++ byteField w) = w := by
  have hmatch : c ++ 0#16 = c ++ 0#8 ++ 0#8 := BitVec.append_assoc' (x₂ := 0#8) (x₃ := 0#8)
  calc c ++ (0#8 ++ byteField w)
      = c ++ 0#8 ++ byteField w := BitVec.append_assoc'
    _ = w := append_low_of_and_upper (n := 24) (m := 8) (h.trans hmatch)

/-- A word without operands is the row's match (R84). -/
theorem eq_of_and_allOnes {w c : Word} (h : w &&& 0xFFFFFFFF#32 = c) : c = w :=
  h.symm.trans BitVec.and_allOnes

/-- The command a selected row reads has the word as its encoding: the row's bits and the operands are all of it (R81, R84). -/
theorem encode_read_of_selects {r : Row} {w : Word} (hr : r ∈ opcodeTable) (hs : r.selects w = true) :
    encode (r.read w) = w := by
  have h : w &&& r.mask = r.mtch := (selects_iff r w).1 hs
  simp only [opcodeTable, List.mem_cons, List.not_mem_nil, or_false] at hr
  rcases hr with rfl | rfl | rfl | rfl | rfl | rfl | rfl | rfl | rfl | rfl
  · exact eq_of_and_allOnes h
  · exact eq_of_and_allOnes h
  · exact append_byte_of_and_upper h
  · exact eq_of_and_allOnes h
  · exact append_fields_of_and_opcode h
  · exact eq_of_and_allOnes h
  · exact eq_of_and_allOnes h
  · exact eq_of_and_allOnes h
  · exact append_low_of_and_upper (n := 16) (m := 16) h
  · exact append_fields_of_and_opcode h

/-- Settles O1: a word is the encoding of what its row reads (`encode_read_of_selects`), and an encoding decodes to its command (`decodeWord_encode`). -/
theorem decodeInvertsEncode : Obligations.DecodeInvertsEncode := by
  intro w i
  constructor
  · intro h
    obtain ⟨r, hr, hs, rfl⟩ := decodeWord_row h
    exact encode_read_of_selects hr hs
  · rintro rfl
    exact decodeWord_encode i

/-- Settles O2, by evaluating the decoder on each word. -/
theorem wordsOfTheTableDecode : Obligations.WordsOfTheTableDecode := by
  unfold Obligations.WordsOfTheTableDecode
  decide

/-! ## The words no row matches -/

/-- Every row has an opcode below 0xA (R83, R84). -/
theorem opField_lt_of_selects {r : Row} {w : Word} (hr : r ∈ opcodeTable) (hs : r.selects w = true) :
    opField w < 0xA#4 := by
  have hops : ∀ r ∈ opcodeTable, opField r.mtch < 0xA#4 := by decide
  rw [opField_of_selects hr hs]
  exact hops r hr

/-- A word that selects no row is illegal, and OP alone says why (R85). -/
theorem decodeWord_of_unmatched {w : Word} (h : ∀ r ∈ opcodeTable, ¬r.selects w = true) :
    decodeWord w = .error (if 0xA#4 ≤ opField w then .reservedOpcode else .strayBits) := by
  rw [decodeWord, List.find?_eq_none.2 h]

/-- A word is refused exactly when it selects no row, for the reason OP gives (R85). -/
theorem decodeWord_eq_error_iff (w : Word) (e : DecodeError) :
    decodeWord w = .error e ↔
      (if 0xA#4 ≤ opField w then DecodeError.reservedOpcode else .strayBits) = e ∧
        ∀ r ∈ opcodeTable, ¬r.selects w = true := by
  by_cases h : ∀ r ∈ opcodeTable, ¬r.selects w = true
  · rw [decodeWord_of_unmatched h, Except.error.injEq, and_iff_left h]
  · have hok : ∃ i, decodeWord w = .ok i := by
      push Not at h
      obtain ⟨r, hr, hs⟩ := h
      exact ⟨_, decodeWord_of_selects hr hs⟩
    obtain ⟨i, hi⟩ := hok
    exact iff_of_false (by rw [hi]; nofun) fun ⟨_, hnone⟩ => h hnone

/-- The rows have distinct opcodes, so two that match one word are the same row (R83, R84). -/
theorem index_eq_of_selects {w : Word} {i j : Nat} {r q : Row} (hi : opcodeTable[i]? = some r)
    (hj : opcodeTable[j]? = some q) (hr : r.selects w = true) (hq : q.selects w = true) : i = j := by
  have hrow : r = q := row_eq_of_opField_eq (List.mem_of_getElem? hi) (List.mem_of_getElem? hj)
    (by rw [← opField_of_selects (List.mem_of_getElem? hi) hr, opField_of_selects (List.mem_of_getElem? hj) hq])
  have hdistinct : opcodeTable.Nodup := List.Nodup.of_map (fun x => opField x.mtch) (by decide)
  refine (List.getElem?_inj (List.getElem?_eq_some_iff.1 hi).1 hdistinct).1 ?_
  rw [hi, hj, hrow]

/-- Settles O3: the rows' opcodes are distinct and below 0xA, so OP tells the two refusals apart. -/
theorem theTableDecidesEveryWord : Obligations.TheTableDecidesEveryWord := by
  refine ⟨fun w i j r q hi hj hr hq =>
    index_eq_of_selects hi hj ((selects_iff r w).2 hr) ((selects_iff q w).2 hq), fun w => ⟨?_, ?_⟩⟩
  · rw [decodeWord_eq_error_iff]
    change _ ↔ 0xA#4 ≤ opField w
    constructor
    · rintro ⟨he, -⟩
      by_contra hop
      rw [if_neg hop] at he
      cases he
    · intro hop
      exact ⟨if_pos hop, fun r hr hs => BitVec.not_lt.2 hop (opField_lt_of_selects hr hs)⟩
  · simp only [decodeWord_eq_error_iff, selects_iff]
    refine and_congr_left fun _ => ?_
    change _ ↔ opField w < 0xA#4
    rw [← BitVec.not_le]
    by_cases hop : 0xA#4 ≤ opField w <;> simp [hop]

end Sys2Proof.Proofs.Decoding
end

section
/-! The assembler keeps every operand that is in range and refuses the others (spec 30_encoding.md R86). -/

namespace Sys2Proof.Proofs.Assembly

open Sys2Proof Sys2Proof.Machine

theorem assemble_eq_some_iff (a : Asm) (i : Instr) : assemble a = some i ↔ a.wf = true ∧ asmInstr a = i := by
  rw [assemble, Option.ite_none_right_eq_some, Option.some.injEq]

theorem assemble_eq_none {a : Asm} (h : a.wf = false) : assemble a = none := by
  simp [assemble, h]

/-- The numbers within a field's range are what its values stand for, each of one value (R86). -/
theorem le_and_ofNat_eq_iff {k max : Nat} (hmax : max + 1 = 2 ^ k) (n : Nat) (x : BitVec k) :
    n ≤ max ∧ BitVec.ofNat k n = x ↔ n = x.toNat := by
  constructor
  · rintro ⟨hn, rfl⟩
    rw [BitVec.toNat_ofNat, Nat.mod_eq_of_lt (by omega)]
  · rintro rfl
    have hx : x.toNat < 2 ^ k := x.isLt
    exact ⟨by omega, by simp⟩

theorem byteOperand_iff (n : Nat) (b : Byte) : n ≤ 0xFF ∧ BitVec.ofNat 8 n = b ↔ n = b.toNat :=
  le_and_ofNat_eq_iff rfl n b

theorem halfOperand_iff (n : Nat) (r : Half) : n ≤ 0xFFFF ∧ BitVec.ofNat 16 n = r ↔ n = r.toNat :=
  le_and_ofNat_eq_iff rfl n r

/-- The operands `addr` and `reg` of `build` and `readreg`, checked together (R86). -/
theorem addrRegOperands_iff (n m : Nat) (a : Byte) (r : Half) :
    (n ≤ 0xFF ∧ m ≤ 0xFFFF) ∧ BitVec.ofNat 8 n = a ∧ BitVec.ofNat 16 m = r ↔ n = a.toNat ∧ m = r.toNat := by
  rw [and_and_and_comm, byteOperand_iff, halfOperand_iff]

/-- Settles O4: an operand is checked against its field's range before it is put in the field. -/
theorem assemblyTruncatesNoOperand : Obligations.AssemblyTruncatesNoOperand := by
  refine ⟨fun n b => ?_, fun n r => ?_, fun n m a r => ?_, fun n m a r => ?_, fun n hn => ?_, fun n hn => ?_,
    fun n m h => ?_⟩
  · simpa [assemble_eq_some_iff, Asm.wf, asmInstr] using byteOperand_iff n b
  · simpa [assemble_eq_some_iff, Asm.wf, asmInstr] using halfOperand_iff n r
  · simpa [assemble_eq_some_iff, Asm.wf, asmInstr] using addrRegOperands_iff n m a r
  · simpa [assemble_eq_some_iff, Asm.wf, asmInstr] using addrRegOperands_iff n m a r
  · exact assemble_eq_none (decide_eq_false (Nat.not_le.2 hn))
  · exact assemble_eq_none (decide_eq_false (Nat.not_le.2 hn))
  · have hwf : (decide (n ≤ 0xFF) && decide (m ≤ 0xFFFF)) = false := by
      rw [Bool.and_eq_false_iff, decide_eq_false_iff_not, decide_eq_false_iff_not]
      omega
    exact ⟨assemble_eq_none hwf, assemble_eq_none hwf⟩

end Sys2Proof.Proofs.Assembly
end

section
/-! What no command touches: CMD, REJ, the time, the peer's readiness, the program and the model's own schedule and host log (spec 10_state.md R20, R22, R53). -/

namespace Sys2Proof.Proofs.HostSide

open Sys2Proof Sys2Proof.Machine Sys2Proof.Proofs.Steps

/-- CMD, REJ, `now_ms()`, the peer's readiness, the program, the schedule and the host's log stay. -/
def KeepsHostSide (s t : State) : Prop :=
  t.cmd = s.cmd ∧ t.status.rej = s.status.rej ∧ t.env.nowMs = s.env.nowMs ∧ t.env.txReady = s.env.txReady ∧
    t.program = s.program ∧ t.script = s.script ∧ t.hostLog = s.hostLog

theorem keepsHostSide_buildPhase (c : Config) (addr : Byte) (reg : Half) (s : State) :
    KeepsHostSide s (buildPhase c addr reg s) := by
  rcases buildPhase_cases c addr reg s with ⟨-, e⟩ | ⟨-, e⟩ <;> rw [e] <;> simp [KeepsHostSide]

theorem keepsHostSide_afterEmit (s : State) : KeepsHostSide s s.afterEmit := by
  rcases afterEmit_cases s with ⟨-, e⟩ | ⟨-, e⟩ <;> rw [e] <;> simp [KeepsHostSide]

theorem keepsHostSide_sendStep {c : Config} {s t : State} (ht : sendStep c s = .next t) : KeepsHostSide s t := by
  rcases sendStep_cases c s with ⟨-, e⟩ | ⟨-, -, e⟩ | ⟨b, -, -, -, e⟩ | ⟨-, -, -, e⟩ <;> rw [e] at ht <;> cases ht
  · simp [KeepsHostSide]
  · simp [KeepsHostSide]
  · simpa [KeepsHostSide] using keepsHostSide_afterEmit (s.sendEntry.emit b)

theorem keepsHostSide_rxWait (c : Config) (s : State) : KeepsHostSide s (rxWait c s) := by
  rcases rxWait_cases c s with
    ⟨-, e⟩ | ⟨-, -, e⟩ | ⟨rest, -, -, e⟩ | ⟨b, rest, -, -, -, -, e⟩ | ⟨b, rest, -, -, -, -, e⟩ <;> rw [e]
  · simp [KeepsHostSide]
  · simp [KeepsHostSide]
  · simp [KeepsHostSide]
  · simp [KeepsHostSide]
  · split <;> simp [KeepsHostSide]

theorem keepsHostSide_recvStep (c : Config) (s : State) : KeepsHostSide s (recvStep c s) := by
  unfold recvStep
  split
  · simp [KeepsHostSide]
  · exact keepsHostSide_rxWait c s

theorem keepsHostSide_checkCrc (s : State) (msg : List Byte) : KeepsHostSide s (s.checkCrc msg) := by
  rcases checkCrc_cases s msg with ⟨-, e⟩ | ⟨-, e⟩ <;> rw [e] <;> simp [KeepsHostSide]

theorem keepsHostSide_unstuffPhase {c : Config} {s t : State} (ht : unstuffPhase c s = .next t) : KeepsHostSide s t := by
  rcases unstuffPhase_cases c s with ⟨i, -, e⟩ | ⟨p, -, e⟩ | ⟨p, -, e⟩ <;> rw [e] at ht <;> cases ht
  · simp [KeepsHostSide]
  · simpa [KeepsHostSide] using keepsHostSide_checkCrc ((s.setPhase .unstuff).keepPass p) p.msg

theorem keepsHostSide_decodePhase {c : Config} {s t : State} {reg : Half} (ht : decodePhase c reg s = .next t) :
    KeepsHostSide s t := by
  rcases decodePhase_cases c reg s with ⟨k, n, -, -, e⟩ | ⟨n, se, bytes, e⟩ | ⟨i, -, -, e⟩ <;> rw [e] at ht <;> cases ht
  · simp [KeepsHostSide]
  · simp [KeepsHostSide]

/-- A later step of a command keeps them (R213). -/
theorem keepsHostSide_phaseStep {c : Config} {s t : State} {reg : Half} (ht : phaseStep c reg s = .next t) :
    KeepsHostSide s t := by
  rcases phaseStep_cases c reg s with ⟨-, e⟩ | ⟨-, e⟩ | ⟨-, e⟩ | ⟨-, e⟩ | ⟨-, e⟩ <;> rw [e] at ht
  · exact keepsHostSide_sendStep ht
  · cases ht
    exact keepsHostSide_recvStep c s
  · exact keepsHostSide_unstuffPhase ht
  · exact keepsHostSide_decodePhase ht
  · cases ht

/-- Every step of every command keeps them (R20, R213). -/
theorem keepsHostSide_exec {i : Instr} {s t : State} (ht : exec i s = .next t) : KeepsHostSide s t := by
  cases i with
  | nop | crcclr | crcbyte _ => cases ht; simp [KeepsHostSide]
  | crcmsg =>
    change crcMsgPhase hw s = .next t at ht
    rcases crcMsgPhase_cases hw s with ⟨bytes, -, e⟩ | ⟨i, -, -, e⟩ <;> rw [e] at ht <;> cases ht
    simp [KeepsHostSide]
  | build addr reg => cases ht; exact keepsHostSide_buildPhase hw addr reg s
  | send => exact keepsHostSide_sendStep ht
  | recv => cases ht; exact keepsHostSide_recvStep hw s
  | unstuff => exact keepsHostSide_unstuffPhase ht
  | decode reg => exact keepsHostSide_decodePhase ht
  | readreg addr reg =>
    by_cases hp : s.status.phase = .noPhase
    · rw [exec_readreg_first hp] at ht
      cases ht
      exact keepsHostSide_buildPhase hw addr reg s.setSeq
    · rw [exec_readreg_later hp] at ht
      exact keepsHostSide_phaseStep ht

/-- So does every act of the block (R21, R213). -/
theorem keepsHostSide_blockStep {s t : State} (ht : blockStep s = .next t) : KeepsHostSide s t := by
  rcases blockStep_cases s with ⟨-, e⟩ | ⟨e', -, -, -, e⟩ | ⟨i, -, -, -, e⟩ | ⟨-, -, e⟩ <;> rw [e] at ht
  · cases ht
    simp [KeepsHostSide]
  · cases ht
    simp [KeepsHostSide]
  · exact keepsHostSide_exec ht
  · exact keepsHostSide_phaseStep ht

end Sys2Proof.Proofs.HostSide
end

section
/-! The pseudo-instructions (spec 30_encoding.md R87): a poll of `wait`, whose acts change the program, and what the others stand for. -/

namespace Sys2Proof.Proofs.PseudoInstructions

open Sys2Proof Sys2Proof.Machine Sys2Proof.Proofs.HostSide

/-- A poll is a read of STATUS, after which the `wait` stays while BUSY is 1 (R87). -/
theorem act_wait (s : State) :
    act .program (s.beforeStmt .wait) =
      .next { hostRead 0x01 s with program := if s.status.busy then .wait :: s.program else s.program } := by
  change Host.Outcome.next (pollBusy s) = _
  unfold pollBusy
  split <;> rfl

/-- Only the program's own acts change it (R20, R261). -/
theorem act_program {a : Action} {s t : State} (ha : a ≠ .program) (ht : act a s = .next t) :
    t.program = s.program := by
  cases a with
  | block =>
    obtain ⟨-, -, -, -, hprog, -⟩ := keepsHostSide_blockStep ht
    exact hprog
  | program => exact absurd rfl ha
  | peerByte _ | peerDrop _ | peerReady _ | tick _ | reset => cases ht; rfl

theorem crc16Bytes_concat (bytes : List Byte) (b : Byte) :
    crc16Bytes (bytes ++ [b]) = crc16Bytes bytes ++ execCmd (.crcbyte b) := by
  simp [crc16Bytes]

/-- The cell writes of `ldmsg` and `ldraw`, each byte at its index above the first offset (R87). -/
theorem cellWrites_eq_mapIdx (off : Nat) (bytes : List Byte) :
    cellWrites off bytes =
      bytes.mapIdx fun i b => .wr (BitVec.ofNat 8 off + BitVec.ofNat 8 i) (b.setWidth 32) := by
  induction bytes generalizing off with
  | nil => rfl
  | cons b bs ih =>
    have hoff : ∀ i : Nat,
        BitVec.ofNat 8 (off + 1) + BitVec.ofNat 8 i = BitVec.ofNat 8 off + BitVec.ofNat 8 (i + 1) := fun i => by
      rw [← BitVec.ofNat_add, ← BitVec.ofNat_add, Nat.add_right_comm, Nat.add_assoc]
    simp [cellWrites, ih, List.mapIdx_cons, hoff]

/-- Settles O60: a poll (`act_wait`), the other acts (`act_program`), and each pseudo-instruction's statements. -/
theorem pseudoInstructionsExpand : Obligations.PseudoInstructionsExpand := by
  refine ⟨act_wait, fun a s t => act_program, fun i => ⟨rfl, rfl⟩, ⟨rfl, crc16Bytes_concat⟩, fun bytes => ⟨?_, ?_⟩⟩
  · rw [ldmsg, cellWrites_eq_mapIdx]; rfl
  · rw [ldraw, cellWrites_eq_mapIdx]; rfl

end Sys2Proof.Proofs.PseudoInstructions
end

section
/-! The CRC's steps as laws of XOR, and what they give for whole messages (spec 40_crc.md R101 to R106). -/

namespace Sys2Proof.Proofs.Crc

open Sys2Proof Sys2Proof.Machine

/-- The 17-bit value of R101: the register with the data bit behind it. -/
theorem shifted_eq_concat (r : Half) (d : Bool) :
    (r.setWidth 17 <<< 1) ||| (BitVec.ofBool d).setWidth 17 = r.concat d := by
  rw [BitVec.concat, BitVec.append_def, BitVec.shiftLeftZeroExtend_eq, BitVec.setWidth'_eq]

/-- A bit step shifts the data bit in and subtracts the polynomial where the top bit falls out (R101). -/
theorem crcBit_eq (r : Half) (d : Bool) :
    crcBit r d = r.shiftConcat d ^^^ if r.getLsbD 15 then poly else 0 := by
  simp only [crcBit, shifted_eq_concat, BitVec.getLsbD_concat_succ]
  cases r.getLsbD 15 with
  | false => exact BitVec.xor_zero.symm
  | true => rfl

/-- A bit step in the numbers of R101. -/
theorem toNat_crcBit (r : Half) (d : Bool) :
    (crcBit r d).toNat =
      if (2 * r.toNat + d.toNat).testBit 16 then ((2 * r.toNat + d.toNat) % 0x10000) ^^^ 0x1021
      else 2 * r.toNat + d.toNat := by
  have ht : (r.concat d).toNat = 2 * r.toNat + d.toNat := by rw [BitVec.toNat_concat, Nat.mul_comm]
  have htop : (r.concat d).toNat.testBit 16 = r.getLsbD 15 := BitVec.getLsbD_concat_succ
  have hshift : (r.shiftConcat d).toNat = (r.concat d).toNat % 0x10000 := BitVec.toNat_setWidth ..
  rw [crcBit_eq, BitVec.toNat_xor, hshift, ← ht, htop]
  cases h : r.getLsbD 15 with
  | true => rfl
  | false =>
    have hmsb : (r.concat d).msb = false := by rw [BitVec.msb_eq_getLsbD_last, ← h]; exact htop
    have hlt := BitVec.msb_eq_false_iff_two_mul_lt.1 hmsb
    exact (Nat.xor_zero _).trans (Nat.mod_eq_of_lt (by omega))

theorem shiftConcat_xor (r q : Half) (d e : Bool) :
    (r ^^^ q).shiftConcat (d ^^ e) = r.shiftConcat d ^^^ q.shiftConcat e := by
  simp only [BitVec.shiftConcat, BitVec.truncate_eq_setWidth, ← BitVec.concat_xor_concat, BitVec.setWidth_xor]

/-- A bit step is linear over XOR (R103). -/
theorem crcBit_xor (r q : Half) (d e : Bool) : crcBit (r ^^^ q) (d ^^ e) = crcBit r d ^^^ crcBit q e := by
  have hpoly : ∀ x y : Bool, (if x ^^ y then poly else 0) = (if x then poly else 0) ^^^ (if y then poly else 0) := by
    decide
  simp only [crcBit_eq, shiftConcat_xor, BitVec.getLsbD_xor, hpoly]
  ac_rfl

/-- Every one of the eight bit steps is linear (R102, R103). -/
theorem crcByte_xor (r q : Half) (a b : Byte) : crcByte (r ^^^ q) (a ^^^ b) = crcByte r a ^^^ crcByte q b := by
  simp only [crcByte, List.foldl_cons, List.foldl_nil, BitVec.getLsbD_xor, crcBit_xor]

/-- The byte steps of two equally long sequences are linear together in the registers they start from and the bytes they absorb (R103). -/
theorem foldl_crcByte_xor {m n : List Byte} (h : m.length = n.length) (r q : Half) :
    (List.zipWith (fun a b : Byte => a ^^^ b) m n).foldl crcByte (r ^^^ q) =
      m.foldl crcByte r ^^^ n.foldl crcByte q := by
  induction m generalizing n r q with
  | nil => rw [List.eq_nil_of_length_eq_zero h.symm]; rfl
  | cons a m ih =>
    cases n with
    | nil => cases h
    | cons b n => simp only [List.zipWith_cons_cons, List.foldl_cons, crcByte_xor, ih (Nat.succ.inj h)]

theorem crcByte_zero_zero : crcByte 0 0 = 0 := by decide

/-- Zero bytes leave a clear register clear (R106). -/
theorem crc16_replicate_zero (k : Nat) : crc16 (List.replicate k 0) = 0 := by
  induction k with
  | zero => rfl
  | succ k ih => rwa [crc16, List.replicate_succ, List.foldl_cons, crcByte_zero_zero]

theorem crc16_append (m n : List Byte) : crc16 (m ++ n) = n.foldl crcByte (crc16 m) := List.foldl_append

/-- Where the register's value has fewer than 16 bits, a bit step only puts the data bit behind it (R106). -/
theorem crcBit_setWidth {n : Nat} (hn : n < 16) (x : BitVec n) (d : Bool) :
    crcBit (x.setWidth 16) d = (x.concat d).setWidth 16 := by
  have htop : (x.setWidth 16).getLsbD 15 = false := by
    rw [BitVec.getLsbD_setWidth, BitVec.getLsbD_of_ge x 15 (by omega), Bool.and_false]
  rw [crcBit_eq, htop]
  ext j hj
  cases j with
  | zero => simp [BitVec.getElem_shiftConcat]
  | succ j => simp

/-- The bits of a byte put in one by one, bit 7 first, are the byte. -/
theorem concat_bits_eq_append {n : Nat} (x : BitVec n) (b : Byte) :
    ((((((((x.concat (b.getLsbD 7)).concat (b.getLsbD 6)).concat (b.getLsbD 5)).concat (b.getLsbD 4)).concat
      (b.getLsbD 3)).concat (b.getLsbD 2)).concat (b.getLsbD 1)).concat (b.getLsbD 0)) = x ++ b := by
  apply BitVec.eq_of_getLsbD_eq
  intro j hj
  simp only [BitVec.getLsbD_append, BitVec.getLsbD_concat]
  match j with
  | 0 | 1 | 2 | 3 | 4 | 5 | 6 | 7 => rfl
  | j + 8 => simp

/-- No bit step of a byte tests a set bit where the register's high byte is clear (R106). -/
theorem crcByte_setWidth (a b : Byte) : crcByte (a.setWidth 16) b = a ++ b := by
  simp (disch := decide) only [crcByte, List.foldl_cons, List.foldl_nil, crcBit_setWidth]
  rw [concat_bits_eq_append, BitVec.setWidth_eq]

theorem zero_append_byte (b : Byte) : (0x00 : Byte) ++ b = b.setWidth 16 :=
  (BitVec.setWidth_eq_append (by decide)).symm

/-- A clear register takes its first byte as it is (R106). -/
theorem crcByte_zero (b : Byte) : crcByte 0 b = b.setWidth 16 :=
  (crcByte_setWidth 0x00 b).trans (zero_append_byte b)

theorem crc16_singleton (b : Byte) : crc16 [b] = b.setWidth 16 := by
  rw [crc16, List.foldl_cons, List.foldl_nil, crcByte_zero]

/-- A two-byte message is its CRC (R106). -/
theorem crc16_pair (a b : Byte) : crc16 [a, b] = a ++ b := by
  rw [crc16, List.foldl_cons, List.foldl_cons, List.foldl_nil, crcByte_zero, crcByte_setWidth]

/-- The last two bytes of a message go into the CRC of the message with zeros in their place (R104). -/
theorem crc16_append_pair (m : List Byte) (a b : Byte) :
    crc16 (m ++ [a, b]) = crc16 (m ++ [0x00, 0x00]) ^^^ crc16 [a, b] := by
  have h := foldl_crcByte_xor (m := [0x00, 0x00]) (n := [a, b]) rfl (crc16 m) 0
  have hreg : crc16 m ^^^ 0 = crc16 m := BitVec.xor_zero
  have hbytes : List.zipWith (fun a b : Byte => a ^^^ b) [0x00, 0x00] [a, b] = [a, b] := by simp
  rwa [hreg, hbytes, ← crc16_append, ← crc16_append] at h

/-- Settles O10: the numbers of a bit step (`toNat_crcBit`); the rest is the folds themselves. -/
theorem crcStepsAreTheRules : Obligations.CrcStepsAreTheRules :=
  ⟨toNat_crcBit, fun _ _ => rfl, fun _ => rfl, crc16_append⟩

/-- Settles O12, by the linearity of the byte step and because zero bytes leave a clear register clear. -/
theorem crcIsLinear : Obligations.CrcIsLinear :=
  ⟨fun _ _ h => foldl_crcByte_xor h 0 0, fun k m => by rw [crc16_append, crc16_replicate_zero, crc16]⟩

/-- Settles O14: a second byte goes behind the first, and zero bytes leave a clear register clear. -/
theorem crcOfShortAndZeroMessages : Obligations.CrcOfShortAndZeroMessages :=
  ⟨rfl, crc16_replicate_zero 1, crc16_singleton, fun b => by rw [crc16_pair, zero_append_byte], crc16_pair,
    crc16_replicate_zero⟩

/-- Settles O13: the two bytes of the CRC have the CRC as their own, which cancels (R104). -/
theorem crcAppendedMakesCrcZero : Obligations.CrcAppendedMakesCrcZero := fun m => by
  rw [crc16_append_pair, crc16_pair, BitVec.extractLsb'_append_extractLsb']
  exact BitVec.xor_self

end Sys2Proof.Proofs.Crc
end

section
/-! `crc16` as a remainder: the steps in the quotient of the polynomials over GF(2) by P(x) (spec 40_crc.md R103). -/

namespace Sys2Proof.Proofs.CrcPolynomial

open Sys2Proof Sys2Proof.Machine Sys2Proof.Proofs.Crc Polynomial

/-- A data bit as a polynomial. -/
noncomputable def bitPoly (d : Bool) : (ZMod 2)[X] := if d then 1 else 0

theorem bitPoly_xor (d e : Bool) : bitPoly (d ^^ e) = bitPoly d + bitPoly e := by
  cases d <;> cases e <;> simp [bitPoly, CharTwo.add_self_eq_zero]

theorem bitPoly_mul (d : Bool) (p : (ZMod 2)[X]) : bitPoly d * p = if d then p else 0 := by
  rw [bitPoly, ite_mul, one_mul, zero_mul]

theorem crcPoly_eq_sum (r : Half) : crcPoly r = ∑ j ∈ Finset.range 16, bitPoly (r.getLsbD j) * X ^ j := by
  simp only [crcPoly, bitPoly_mul]

theorem bytePoly_eq_sum (b : Byte) : bytePoly b = ∑ k ∈ Finset.range 8, bitPoly (b.getLsbD k) * X ^ k := by
  simp only [bytePoly, bitPoly_mul]

theorem crcPoly_xor (r q : Half) : crcPoly (r ^^^ q) = crcPoly r + crcPoly q := by
  simp only [crcPoly_eq_sum, BitVec.getLsbD_xor, bitPoly_xor, add_mul, Finset.sum_add_distrib]

/-- Shifting a bit in multiplies by x, adds the bit and loses the top coefficient. -/
theorem crcPoly_shiftConcat (r : Half) (d : Bool) :
    crcPoly (r.shiftConcat d) + (if r.getLsbD 15 then X ^ 16 else 0) = crcPoly r * X + bitPoly d := by
  have hlow : (r.shiftConcat d).getLsbD 0 = d := BitVec.getLsbD_shiftConcat ..
  have hshift : ∀ j ∈ Finset.range 15, bitPoly ((r.shiftConcat d).getLsbD (j + 1)) * X ^ (j + 1) =
      bitPoly (r.getLsbD j) * X ^ j * X := fun j hj => by
    have hj' : j + 1 < 16 := by have := Finset.mem_range.1 hj; omega
    rw [BitVec.getLsbD_shiftConcat, decide_eq_true hj', Bool.true_and, if_neg j.succ_ne_zero, Nat.add_sub_cancel,
      pow_succ, mul_assoc]
  rw [crcPoly_eq_sum, crcPoly_eq_sum, Finset.sum_range_succ', Finset.sum_congr rfl hshift, hlow,
    Finset.sum_range_succ _ 15, add_mul, Finset.sum_mul, ← bitPoly_mul]
  ring

theorem crcPoly_zero : crcPoly 0 = 0 := by simp [crcPoly]

theorem crcPoly_poly : crcPoly poly + X ^ 16 = generatorPoly := by
  simp only [crcPoly, poly, generatorPoly, Finset.sum_range_succ, Finset.sum_range_zero, BitVec.reduceGetLsb,
    Bool.false_eq_true, if_true, if_false]
  ring

/-- In characteristic two a term added twice cancels. -/
theorem add_add_add_self (p q t : (ZMod 2)[X]) : p + t + (q + t) = p + q := by
  rw [add_add_add_comm, CharTwo.add_self_eq_zero, add_zero]

/-- A bit step multiplies by x and adds the data bit, up to a multiple of P(x) (R103). -/
theorem crcPoly_crcBit (r : Half) (d : Bool) :
    crcPoly (crcBit r d) = crcPoly r * X + bitPoly d + if r.getLsbD 15 then generatorPoly else 0 := by
  rw [crcBit_eq, crcPoly_xor, ← crcPoly_shiftConcat, ← crcPoly_poly]
  cases r.getLsbD 15 with
  | false => simp only [Bool.false_eq_true, if_false, crcPoly_zero, add_zero]
  | true => simp only [if_true, add_add_add_self]

/-- Modulo P(x) the multiple vanishes. -/
theorem mk_crcBit (r : Half) (d : Bool) :
    AdjoinRoot.mk generatorPoly (crcPoly (crcBit r d)) =
      AdjoinRoot.mk generatorPoly (crcPoly r * X + bitPoly d) := by
  rw [crcPoly_crcBit, map_add _ (_ + _), add_eq_left]
  split
  · exact AdjoinRoot.mk_self
  · exact map_zero _

/-- A byte step multiplies by x^8 and adds the byte, modulo P(x). -/
theorem mk_crcByte (r : Half) (b : Byte) :
    AdjoinRoot.mk generatorPoly (crcPoly (crcByte r b)) =
      AdjoinRoot.mk generatorPoly (crcPoly r * X ^ 8 + bytePoly b) := by
  simp only [crcByte, List.foldl_cons, List.foldl_nil, mk_crcBit, bytePoly_eq_sum, Finset.sum_range_succ,
    Finset.sum_range_zero, map_add, map_mul, map_pow, map_zero]
  ring

/-- `crc16` and the message agree modulo P(x). -/
theorem mk_crc16 (m : List Byte) :
    AdjoinRoot.mk generatorPoly (crcPoly (crc16 m)) = AdjoinRoot.mk generatorPoly (messagePoly m) := by
  induction m using List.reverseRecOn with
  | nil => simp [crc16, messagePoly, crcPoly]
  | append_singleton m b ih =>
    have hmsg : messagePoly (m ++ [b]) = messagePoly m * X ^ 8 + bytePoly b := List.foldl_append
    rw [crc16_append, List.foldl_cons, List.foldl_nil, mk_crcByte, hmsg, map_add, map_add, map_mul, map_mul, ih]

/-- Settles O11, by induction on the message in the quotient by P(x). -/
theorem crcIsThePolynomialRemainder : Obligations.CrcIsThePolynomialRemainder :=
  fun m => AdjoinRoot.mk_eq_mk.1 (mk_crc16 m).symm

end Sys2Proof.Proofs.CrcPolynomial
end

section
/-! The commands of the CRC unit and NOP (spec 40_crc.md R107 to R109, 45_transaction.md R215). -/

namespace Sys2Proof.Proofs.CrcCommands

open Sys2Proof Sys2Proof.Machine

/-- What CRCCLR, CRCBYTE and CRCMSG do with the new CRC `v` (R107 to R109). -/
theorem complete_setCrc (s : State) (v : Half) :
    ((s.setPhase .crc).setCrc v).complete = { s with crc := v, entry := false, status := s.status.ended .crc } := rfl

/-- CRCMSG goes on with the bytes of the message (R109). -/
theorem exec_crcmsg {s : State} {msg : List Byte} (hlen : msg.length = s.msgLen.toNat) (h : s.holds .msg 0 msg) :
    exec .crcmsg s = .next ((s.setPhase .crc).setCrc (crc16 msg)).complete :=
  needCells_some (hlen ▸ h) _

/-- Settles O15: each command's own arm. -/
theorem nopCrcclrCrcbyteResults : Obligations.NopCrcclrCrcbyteResults :=
  fun s b => ⟨rfl, congrArg Host.Outcome.next (complete_setCrc s 0),
    congrArg Host.Outcome.next (complete_setCrc s (crcByte s.crc b))⟩

/-- Settles O16: the cells below MSG_LEN are read, and the CRC of their bytes is kept. -/
theorem crcmsgResult : Obligations.CrcmsgResult := fun s msg hlen h => by
  rw [exec_crcmsg hlen h, complete_setCrc]

end Sys2Proof.Proofs.CrcCommands
end

section
/-! The stuffer and the transmit frame (spec 41_frame_encode.md R120 to R122): the length of a frame, and where the reserved bytes stand in it. -/

namespace Sys2Proof.Proofs.Stuffing

open Sys2Proof Sys2Proof.Machine

/-- `is_esc` is membership in ESCSET (R17). -/
theorem isEsc_iff_mem {b : Byte} : isEsc b = true ↔ b ∈ escSet := List.contains_iff_mem

/-- The complement of a reserved byte is not reserved (R120). -/
theorem isEsc_xorMask {b : Byte} (h : isEsc b = true) : isEsc (b ^^^ xorMask) = false := by
  have hall : ∀ b ∈ escSet, isEsc (b ^^^ xorMask) = false := by decide
  exact hall b (isEsc_iff_mem.1 h)

theorem stuff_of_isEsc {b : Byte} (h : isEsc b = true) : stuff b = [escByte, b ^^^ xorMask] := if_pos h

theorem stuff_of_not_isEsc {b : Byte} (h : isEsc b = false) : stuff b = [b] := by simp [stuff, h]

/-- A pair stands for a reserved byte (R120). -/
theorem stuff_length_eq_two_iff {b : Byte} : (stuff b).length = 2 ↔ isEsc b = true := by
  cases h : isEsc b <;> simp [stuff, h]

theorem stuffAll_cons (b : Byte) (m : List Byte) : stuffAll (b :: m) = stuff b ++ stuffAll m := rfl

/-- A reserved byte costs one byte more (R121). -/
theorem stuffAll_length (m : List Byte) : (stuffAll m).length = m.length + m.countP isEsc := by
  induction m with
  | nil => rfl
  | cons b m ih =>
    rw [stuffAll_cons, List.length_append, ih, List.length_cons, List.countP_cons]
    cases h : isEsc b with
    | true => simp [stuff_of_isEsc h]; omega
    | false => simp [stuff_of_not_isEsc h]; omega

theorem frame_eq (m : List Byte) : frame m = [0x80] ++ (m.map stuff).flatten ++ [0x0d] := rfl

theorem frame_length_eq (m : List Byte) : (frame m).length = 2 + m.length + m.countP isEsc := by
  rw [frame_length, stuffAll_length, Nat.add_assoc]

/-- Settles O17, by induction on the message (`stuffAll_length`): each byte counts once, a reserved one twice. -/
theorem frameShapeAndLength : Obligations.FrameShapeAndLength := by
  intro m
  have hcount : m.countP isEsc = m.countP fun b => b ∈ escSet :=
    List.countP_congr fun _ _ => isEsc_iff_mem.trans decide_eq_true_iff.symm
  exact ⟨frame_eq m, hcount ▸ frame_length_eq m⟩

/-- Behind the stuffer the only reserved byte is the escape marker (R122). -/
theorem eq_escByte_of_mem_stuff {b x : Byte} (hx : x ∈ stuff b) (hesc : isEsc x = true) : x = escByte := by
  cases hb : isEsc b with
  | true =>
    rw [stuff_of_isEsc hb, List.mem_pair] at hx
    rcases hx with rfl | rfl
    · rfl
    · rw [isEsc_xorMask hb] at hesc
      cases hesc
  | false =>
    rw [stuff_of_not_isEsc hb, List.mem_singleton] at hx
    rw [hx, hb] at hesc
    cases hesc

theorem eq_escByte_of_mem_stuffAll {m : List Byte} {x : Byte} (hx : x ∈ stuffAll m) (hesc : isEsc x = true) :
    x = escByte := by
  obtain ⟨b, -, hb⟩ := List.mem_flatMap.1 hx
  exact eq_escByte_of_mem_stuff hb hesc

/-- In what stands for one byte the escape marker comes first, before its partner (R122). -/
theorem stuff_getElem?_escByte {b : Byte} {j : Nat} (h : (stuff b)[j]? = some escByte) : isEsc b = true ∧ j = 0 := by
  cases hb : isEsc b with
  | true =>
    refine ⟨rfl, ?_⟩
    rw [stuff_of_isEsc hb] at h
    match j with
    | 0 => rfl
    | 1 =>
      have hy : b ^^^ xorMask = escByte := Option.some.inj h
      have hesc := isEsc_xorMask hb
      rw [hy] at hesc
      cases hesc
    | j + 2 => cases h
  | false =>
    rw [stuff_of_not_isEsc hb] at h
    have hx : escByte = b := List.mem_singleton.1 (List.mem_of_getElem? h)
    rw [← hx] at hb
    cases hb

/-- An escape marker in a stuffed message begins the pair of one reserved byte (R122). -/
theorem stuffAll_getElem?_escByte {m : List Byte} {j : Nat} (h : (stuffAll m)[j]? = some escByte) :
    ∃ p b q, m = p ++ b :: q ∧ isEsc b = true ∧ j = (stuffAll p).length := by
  induction m generalizing j with
  | nil => cases h
  | cons c m ih =>
    rw [stuffAll_cons] at h
    by_cases hj : j < (stuff c).length
    · rw [List.getElem?_append_left hj] at h
      obtain ⟨hc, rfl⟩ := stuff_getElem?_escByte h
      exact ⟨[], c, m, rfl, hc, rfl⟩
    · rw [List.getElem?_append_right (by omega)] at h
      obtain ⟨p, b, q, rfl, hb, hk⟩ := ih h
      refine ⟨c :: p, b, q, rfl, hb, ?_⟩
      rw [stuffAll_cons, List.length_append]
      omega

/-- A byte of a frame is PREFIX, TERM, or a byte of the stuffed message (R121). -/
theorem frame_getElem?_cases {m : List Byte} {k : Nat} {x : Byte} (h : (frame m)[k]? = some x) :
    (k = 0 ∧ x = prefixByte) ∨ (k + 1 = (frame m).length ∧ x = termByte) ∨
      ∃ j, k = 1 + j ∧ (stuffAll m)[j]? = some x := by
  rw [frame_length]
  cases k with
  | zero => exact .inl ⟨rfl, (Option.some.inj h).symm⟩
  | succ j =>
    change (stuffAll m ++ [termByte])[j]? = some x at h
    by_cases hj : j < (stuffAll m).length
    · rw [List.getElem?_append_left hj] at h
      exact .inr (.inr ⟨j, by omega, h⟩)
    · rw [List.getElem?_append_right (by omega), List.getElem?_singleton] at h
      split at h
      · exact .inr (.inl ⟨by omega, (Option.some.inj h).symm⟩)
      · cases h

/-- A reserved byte other than the escape marker stands in a frame only as PREFIX or TERM (R122). -/
theorem frame_getElem?_reserved {m : List Byte} {k : Nat} {x : Byte} (h : (frame m)[k]? = some x)
    (hesc : isEsc x = true) (hx : x ≠ escByte) :
    (k = 0 ∧ x = prefixByte) ∨ (k + 1 = (frame m).length ∧ x = termByte) := by
  rcases frame_getElem?_cases h with h | h | ⟨j, -, h⟩
  · exact .inl h
  · exact .inr h
  · exact absurd (eq_escByte_of_mem_stuffAll (List.mem_of_getElem? h) hesc) hx

theorem frame_getElem?_prefixByte (m : List Byte) (k : Nat) : (frame m)[k]? = some prefixByte ↔ k = 0 := by
  constructor
  · intro h
    rcases frame_getElem?_reserved h (by decide) (by decide) with ⟨hk, -⟩ | ⟨-, hx⟩
    · exact hk
    · exact absurd hx (by decide)
  · rintro rfl
    rfl

theorem frame_getElem?_termByte (m : List Byte) (k : Nat) :
    (frame m)[k]? = some termByte ↔ k + 1 = (frame m).length := by
  constructor
  · intro h
    rcases frame_getElem?_reserved h (by decide) (by decide) with ⟨-, hx⟩ | ⟨hk, -⟩
    · exact absurd hx (by decide)
    · exact hk
  · intro h
    have hk : k = (prefixByte :: stuffAll m).length := by
      rw [frame_length] at h
      rw [List.length_cons]
      omega
    rw [hk]
    exact List.getElem?_concat_length

/-- A reserved byte that delimits nothing does not occur in a frame (R122). -/
theorem not_mem_frame {m : List Byte} {x : Byte} (hesc : isEsc x = true) (hx : x ≠ escByte) (hp : x ≠ prefixByte)
    (ht : x ≠ termByte) : x ∉ frame m := by
  intro h
  obtain ⟨k, hk⟩ := List.mem_iff_getElem?.1 h
  rcases frame_getElem?_reserved hk hesc hx with ⟨-, e⟩ | ⟨-, e⟩
  · exact hp e
  · exact ht e

theorem frame_getElem?_escByte {m : List Byte} {k : Nat} (h : (frame m)[k]? = some escByte) :
    ∃ p b q, m = p ++ b :: q ∧ (stuff b).length = 2 ∧ k = 1 + (stuffAll p).length := by
  rcases frame_getElem?_cases h with ⟨-, hx⟩ | ⟨-, hx⟩ | ⟨j, rfl, hj⟩
  · exact absurd hx (by decide)
  · exact absurd hx (by decide)
  · obtain ⟨p, b, q, hm, hb, rfl⟩ := stuffAll_getElem?_escByte hj
    exact ⟨p, b, q, hm, stuff_length_eq_two_iff.2 hb, rfl⟩

/-- The second byte of a pair is not reserved (R122). -/
theorem not_mem_escSet_of_stuff_eq_pair {b y : Byte} (h : stuff b = [escByte, y]) : y ∉ escSet := by
  have hb : isEsc b = true := stuff_length_eq_two_iff.1 (by rw [h]; rfl)
  have hy : y = b ^^^ xorMask := by simpa [stuff_of_isEsc hb, eq_comm] using h
  intro hmem
  have hesc := isEsc_iff_mem.2 hmem
  rw [hy, isEsc_xorMask hb] at hesc
  cases hesc

/-- Settles O18: the stuffed message holds no reserved byte but the escape marker, so the others only delimit. -/
theorem reservedBytesOnlyDelimit : Obligations.ReservedBytesOnlyDelimit := by
  refine ⟨fun b => if_congr isEsc_iff_mem rfl rfl, by decide, fun b y => not_mem_escSet_of_stuff_eq_pair, fun m => ?_⟩
  have hstart : startByte ∉ frame m := not_mem_frame (by decide) (by decide) (by decide) (by decide)
  have hsix : 0x06 ∉ frame m := not_mem_frame (by decide) (by decide) (by decide) (by decide)
  exact ⟨frame_getElem?_prefixByte m, frame_getElem?_termByte m, hstart, hsix, fun k => frame_getElem?_escByte⟩

end Sys2Proof.Proofs.Stuffing
end

section
/-! The request message (spec 41_frame_encode.md R123, R124): its CRC, and the length of its frame. -/

namespace Sys2Proof.Proofs.Request

open Sys2Proof Sys2Proof.Machine Sys2Proof.Proofs.Crc Sys2Proof.Proofs.Stuffing

/-- Settles O19: a request is its body with the body's own CRC appended, which makes the CRC zero (R104). -/
theorem requestCarriesItsCrc : Obligations.RequestCarriesItsCrc :=
  fun addr reg => ⟨rfl, rfl, crcAppendedMakesCrcZero (requestBody addr reg)⟩

theorem half_hiByte_loByte (reg : Half) : half (hiByte reg) (loByte reg) = reg :=
  BitVec.extractLsb'_append_extractLsb'

/-- The bytes of a request that can be reserved: CMD_READ and SUB_READ are not (R123, R124). -/
def requestVariable (addr : Byte) (reg : Half) : List Byte :=
  [addr, hiByte reg, loByte reg, hiByte (requestCrc addr reg), loByte (requestCrc addr reg)]

theorem request_countP_isEsc (addr : Byte) (reg : Half) :
    (request addr reg).countP isEsc = (requestVariable addr reg).countP isEsc := by
  have hcmd : isEsc cmdRead = false := by decide
  have hsub : isEsc subRead = false := by decide
  simp [request, requestBody, requestVariable, List.countP_cons, hcmd, hsub]

/-- Where address and register id are reserved bytes, the two bytes of the CRC are not both reserved (R124). -/
theorem requestCrc_not_both_reserved :
    (escSet.all fun addr => escSet.all fun hi => escSet.all fun lo =>
      !(isEsc (hiByte (requestCrc addr (half hi lo))) && isEsc (loByte (requestCrc addr (half hi lo))))) = true := by
  decide +kernel

/-- At most four of a request's bytes are reserved (R124). -/
theorem request_countP_isEsc_le (addr : Byte) (reg : Half) : (request addr reg).countP isEsc ≤ 4 := by
  rw [request_countP_isEsc]
  have hle : (requestVariable addr reg).countP isEsc ≤ 5 := List.countP_le_length
  have hne : (requestVariable addr reg).countP isEsc ≠ 5 := by
    intro h5
    have hall := List.countP_eq_length.1 (h5 : _ = (requestVariable addr reg).length)
    simp only [requestVariable, List.forall_mem_cons] at hall
    obtain ⟨haddr, hhi, hlo, hcrcHi, hcrcLo, -⟩ := hall
    have hcrc := requestCrc_not_both_reserved
    simp only [List.all_eq_true] at hcrc
    have hnot := hcrc addr (isEsc_iff_mem.1 haddr) _ (isEsc_iff_mem.1 hhi) _ (isEsc_iff_mem.1 hlo)
    rw [half_hiByte_loByte, hcrcHi, hcrcLo] at hnot
    cases hnot
  omega

/-- Settles O20: two delimiters, seven bytes, and one more for each of at most four reserved bytes. -/
theorem requestFrameHas9To13Bytes : Obligations.RequestFrameHas9To13Bytes := by
  refine ⟨fun addr reg => ?_, by decide +kernel⟩
  have hcount := request_countP_isEsc_le addr reg
  rw [frame_length_eq, request_length]
  omega

end Sys2Proof.Proofs.Request
end

section
/-! The BUILD phase (spec 41_frame_encode.md R125), where the frame fits and where it does not (60_exceptions.md R233). -/

namespace Sys2Proof.Proofs.Build

open Sys2Proof Sys2Proof.Machine

/-- BUILD once the frame is stored, before the phase ends (R125). -/
def built (s : State) (addr : Byte) (reg : Half) : State :=
  (s.putRequest addr reg).putFrame (frame (request addr reg))

/-- A request frame fits TXBUF here, so BUILD does not fail (R124, R125). -/
theorem buildPhase_hw (addr : Byte) (reg : Half) (s : State) :
    buildPhase hw addr reg s = (built s addr reg).phaseDone := by
  rcases buildPhase_cases hw addr reg s with ⟨hlt, -⟩ | ⟨-, e⟩
  · have hle := frame_fits addr reg
    have hcap : hw.txCap = 20 := rfl
    omega
  · exact e

theorem built_holds (s : State) (addr : Byte) (reg : Half) :
    (built s addr reg).holds .tx 0 (frame (request addr reg)) ∧ (built s addr reg).holds .req 0 (request addr reg) :=
  holds_putFrame ((frame_fits addr reg).trans (by decide)) (holds_putRequest s addr reg)

/-- Storing the request and the frame leaves every other byte (R125). -/
theorem read_built {s : State} {addr : Byte} {reg : Half} {x : Nat} (hreq : ¬(0x10 ≤ x ∧ x < 0x17))
    (htx : ¬(0x40 ≤ x ∧ x < 0x40 + (frame (request addr reg)).length)) :
    Memory.read (built s addr reg).mem x = Memory.read s.mem x :=
  (putFrame_outside _ _ x htx).trans (putRequest_outside s addr reg x hreq)

/-- Settles O21: BUILD ends the phase of the state `built`. -/
theorem buildResult : Obligations.BuildResult := by
  intro s addr reg
  obtain ⟨htx, hreq⟩ := built_holds s addr reg
  exact ⟨built s addr reg, congrArg Host.Outcome.next (buildPhase_hw addr reg s), rfl, indexWithin_le ..,
    fun h => indexWithin_of_le h, hreq, htx, fun _ => read_built⟩

/-- Settles O22: of the two ways a BUILD phase ends, the premise leaves the error. -/
theorem buildBeyondTheCapacity : Obligations.BuildBeyondTheCapacity := by
  intro c s addr reg hlt
  rcases buildPhase_cases c addr reg s with ⟨-, e⟩ | ⟨hle, -⟩
  · rw [e]
    exact ⟨(s.putRequest addr reg).mem, rfl, (holds_congr (raise_mem ..)).2 (holds_putRequest s addr reg),
      putRequest_outside s addr reg⟩
  · omega

end Sys2Proof.Proofs.Build
end

section
/-! The SEND phase (spec 41_frame_encode.md R127, R128): one step in each case, and the steps that send the whole frame. -/

namespace Sys2Proof.Proofs.Send

open Sys2Proof Sys2Proof.Machine

/-- Nothing left to send (R127). -/
theorem sendStep_of_sent {s : State} (h : s.sendEntry.txIdx = s.txLen) (c : Config) :
    sendStep c s = .next s.sendEntry.phaseDone := by
  rcases sendStep_cases c s with ⟨-, e⟩ | ⟨hn, -⟩ | ⟨b, hn, -⟩ | ⟨hn, -⟩
  · exact e
  all_goals exact absurd h hn

/-- The peer does not accept (R127). -/
theorem sendStep_of_not_ready {s : State} (h : s.sendEntry.txIdx ≠ s.txLen) (hr : s.env.txReady = false) (c : Config) :
    sendStep c s = .next s.sendEntry := by
  rcases sendStep_cases c s with ⟨he, -⟩ | ⟨-, -, e⟩ | ⟨b, -, ha, -⟩ | ⟨-, ha, -⟩
  · exact absurd he h
  · exact e
  all_goals
    rw [hr] at ha
    cases ha

/-- A byte leaves (R127). -/
theorem sendStep_of_ready {c : Config} {s : State} {b : Byte} (h : s.sendEntry.txIdx ≠ s.txLen)
    (hr : s.env.txReady = true) (hb : s.cell c .tx s.sendEntry.txIdx.toNat = some b) :
    sendStep c s = .next (s.sendEntry.emit b).afterEmit := by
  rcases sendStep_cases c s with ⟨he, -⟩ | ⟨-, ha, -⟩ | ⟨b', -, -, hc, e⟩ | ⟨-, -, hc, -⟩
  · exact absurd he h
  · rw [hr] at ha
    cases ha
  · rw [hb] at hc
    cases hc
    exact e
  · rw [hb] at hc
    cases hc

/-- Bytes held are the first cell's and the rest's. -/
theorem holds_cons {s : State} {b : Buffer} {i : Nat} {v : Byte} {vs : List Byte} :
    s.holds b i (v :: vs) ↔ s.cell hw b i = some v ∧ s.holds b (i + 1) vs := by
  simp [State.holds]

/-- Settles O23: the entry of the phase leaves `at_ i`, and the three cases are those of a step (R127). -/
theorem sendStepResult : Obligations.SendStepResult := by
  intro s i at_
  have hidx : s.sendEntry.txIdx = i := sendEntry_txIdx s
  have hentry : s.sendEntry = at_ i := sendEntry_eq s
  refine ⟨fun h => ?_, fun h hr => ?_, fun b h hr hb => ?_⟩
  · rw [← hentry]
    exact sendStep_of_sent (hidx.trans h) hw
  · rw [← hentry]
    exact sendStep_of_not_ready (hidx ▸ h) hr hw
  · have hsend := sendStep_of_ready (hidx ▸ h) hr (hidx ▸ (holds_cons.1 hb).1)
    rw [hentry] at hsend
    exact hsend

/-- The first step of an accepted SEND is a step of the SEND phase (R213). -/
theorem blockStep_first_send {s : State} (hb : s.status.busy = true) (hp : s.status.phase = .noPhase)
    (hd : decodeWord s.cmd = .ok .send) : blockStep s = sendStep hw s := by
  change blockStep s = exec .send s
  simp [blockStep, firstStep, hb, hp, hd]

/-- So is every later step with PHASE 2 (R213). -/
theorem blockStep_later_send {s : State} (hb : s.status.busy = true) (hp : s.status.phase = .send) :
    blockStep s = sendStep hw s := by
  simp [blockStep, laterStep, phaseStep, hb, hp]

/-- A block step that is next goes on with the remaining steps. -/
theorem runBlock_succ {s t : State} (h : blockStep s = .next t) (n : Nat) : runBlock (n + 1) s = runBlock n t := by
  rw [runBlock, h]

/-- The state a SEND leaves once `bytes` are the last bytes to leave (R127, R16). -/
def sentAll (s : State) (bytes : List Byte) : State :=
  { s with
    txIdx := s.txLen
    entry := false
    env := { s.env with wire := s.env.wire ++ bytes }
    status := s.status.ended .send }

/-- A byte that leaves first counts among those that left. -/
theorem sentAll_emit (s : State) (b : Byte) (bytes : List Byte) :
    sentAll (s.sendEntry.emit b) bytes = sentAll s (b :: bytes) := by
  rw [sendEntry_eq]
  simp [sentAll, State.emit, State.setPhase, Status.ended]

/-- The last byte of a single SEND ends the command (R127, R214). -/
theorem afterEmit_of_last {s : State} (hseq : s.status.seq = false) (hphase : s.status.phase = .send)
    (h : s.txIdx = s.txLen) : s.afterEmit = sentAll s [] := by
  have hdone : s.afterEmit = s.complete := (if_pos h).trans (phaseDone_of_not_seq hseq)
  rw [hdone]
  simp [sentAll, State.complete, State.finish, Status.ended, h, hphase]

/-- With `n + 1` bytes left an accepting peer gets one, and `n` are left (R127). -/
theorem sendStep_of_left {s : State} {b : Byte} {n : Nat} (hready : s.env.txReady = true)
    (hlen : s.sendEntry.txIdx.toNat + (n + 1) = s.txLen.toNat)
    (hcell : s.cell hw .tx s.sendEntry.txIdx.toNat = some b) :
    sendStep hw s = .next (s.sendEntry.emit b).afterEmit ∧
      (s.sendEntry.emit b).txIdx.toNat + n = (s.sendEntry.emit b).txLen.toNat := by
  constructor
  · have hne : s.sendEntry.txIdx ≠ s.txLen := fun e => by
      rw [e] at hlen
      omega
    exact sendStep_of_ready hne hready hcell
  · have hlt := s.txLen.isLt
    have hadd : (s.sendEntry.txIdx + 1).toNat = s.sendEntry.txIdx.toNat + 1 :=
      BitVec.toNat_add_of_lt (show s.sendEntry.txIdx.toNat + 1 < 2 ^ 8 by omega)
    rw [emit_txIdx, emit_txLen, sendEntry_txLen, hadd]
    omega

/-- A SEND phase with the bytes `b :: bytes` left sends them in as many steps and ends (R127).
The index `sendEntry` leaves is what the first step, with ENTRY set, and the later ones have in common. -/
theorem runBlock_send {b : Byte} {bytes : List Byte} {s : State} (hstep : blockStep s = sendStep hw s)
    (hbusy : s.status.busy = true) (hseq : s.status.seq = false) (hready : s.env.txReady = true)
    (hlen : s.sendEntry.txIdx.toNat + (bytes.length + 1) = s.txLen.toNat)
    (hold : s.holds .tx s.sendEntry.txIdx.toNat (b :: bytes)) :
    runBlock (bytes.length + 1) s = some (sentAll s (b :: bytes)) := by
  induction bytes generalizing b s with
  | nil =>
    obtain ⟨hcell, -⟩ := holds_cons.1 hold
    obtain ⟨hsend, hleft⟩ := sendStep_of_left hready hlen hcell
    rw [afterEmit_of_last (by simpa) (by simp) (BitVec.eq_of_toNat_eq hleft), sentAll_emit] at hsend
    exact runBlock_succ (hstep.trans hsend) 0
  | cons b' bytes ih =>
    obtain ⟨hcell, hrest⟩ := holds_cons.1 hold
    obtain ⟨hsend, hleft⟩ := sendStep_of_left hready hlen hcell
    have hmore : (s.sendEntry.emit b).afterEmit = s.sendEntry.emit b := if_neg fun e => by
      rw [e, List.length_cons] at hleft
      omega
    rw [hmore] at hsend
    rw [runBlock_succ (hstep.trans hsend), ← sentAll_emit]
    have hidx : (s.sendEntry.emit b).sendEntry.txIdx = (s.sendEntry.emit b).txIdx := by simp
    have hnat : (s.sendEntry.emit b).txIdx.toNat = s.sendEntry.txIdx.toNat + 1 := by
      rw [emit_txLen, sendEntry_txLen] at hleft
      rw [List.length_cons] at hlen hleft
      omega
    refine ih (blockStep_later_send (by simpa) (by simp)) (by simpa) (by simpa) (by simpa) ?_ ?_
    · rw [hidx]
      exact hleft
    · rw [hidx, hnat]
      exact (holds_congr (s := s) (by simp)).2 hrest

/-- Settles O24, by induction on the bytes left (`runBlock_send`), from the first step on. -/
theorem sendSendsTheWholeFrame : Obligations.SendSendsTheWholeFrame := by
  intro s bytes hbusy hphase hseq hdec hentry hready hne hlen hold
  have hidx : s.sendEntry.txIdx = 0 := by rw [sendEntry_txIdx, hentry]; rfl
  cases bytes with
  | nil => exact absurd rfl hne
  | cons b bytes =>
    exact runBlock_send (blockStep_first_send hbusy hphase hdec) hbusy hseq hready
      (by rw [hidx, ← hlen]; exact Nat.zero_add _) (by rw [hidx]; exact hold)

end Sys2Proof.Proofs.Send
end

section
/-! Who writes the transmit frame (spec 41_frame_encode.md R126). -/

namespace Sys2Proof.Proofs.FrameWriters

open Sys2Proof Sys2Proof.Machine Sys2Proof.Proofs.Steps

/-- TX_LEN and every byte of TXBUF stay. -/
def KeepsFrame (s t : State) : Prop :=
  t.txLen = s.txLen ∧ ∀ x : Nat, 0x40 ≤ x → x < 0x54 → Memory.read t.mem x = Memory.read s.mem x

theorem keepsFrame_of_mem_eq {s t : State} (hlen : t.txLen = s.txLen) (hmem : t.mem = s.mem) : KeepsFrame s t :=
  ⟨hlen, fun _ _ _ => by rw [hmem]⟩

theorem KeepsFrame.trans {s t u : State} (h : KeepsFrame s t) (h' : KeepsFrame t u) : KeepsFrame s u := by
  obtain ⟨hlen, hread⟩ := h
  obtain ⟨hlen', hread'⟩ := h'
  exact ⟨hlen'.trans hlen, fun x hlo hhi => (hread' x hlo hhi).trans (hread x hlo hhi)⟩

/-- An error outside the BUILD phase leaves TX_LEN (R233). -/
theorem keepsFrame_raise {s : State} (h : s.status.phase ≠ .build) (e : ErrorKind) (info : BitVec 4) :
    KeepsFrame s (s.raise e info) :=
  keepsFrame_of_mem_eq (by rw [raise_txLen, if_neg h]) (raise_mem ..)

theorem keepsFrame_phaseDone (s : State) : KeepsFrame s s.phaseDone :=
  keepsFrame_of_mem_eq (phaseDone_txLen s) (phaseDone_mem s)

theorem keepsFrame_sendStep {s t : State} (ht : sendStep hw s = .next t) : KeepsFrame s t := by
  have hentry : KeepsFrame s s.sendEntry := keepsFrame_of_mem_eq (sendEntry_txLen s) (sendEntry_mem s)
  rcases sendStep_cases hw s with ⟨-, e⟩ | ⟨-, -, e⟩ | ⟨b, -, -, -, e⟩ | ⟨-, -, -, e⟩ <;> rw [e] at ht <;> cases ht
  · exact hentry.trans (keepsFrame_phaseDone _)
  · exact hentry
  · have hemit : KeepsFrame s (s.sendEntry.emit b) := hentry.trans (keepsFrame_of_mem_eq rfl rfl)
    rcases afterEmit_cases (s.sendEntry.emit b) with ⟨-, e⟩ | ⟨-, e⟩ <;> rw [e]
    · exact hemit.trans (keepsFrame_phaseDone _)
    · exact hemit

/-- RAW and MSG lie behind TXBUF (R61). -/
theorem keepsFrame_store {b : Buffer} (h : 0x54 ≤ b.base) (s : State) (i : Nat) (bytes : List Byte) :
    KeepsFrame s (s.store b i bytes) :=
  ⟨rfl, fun x _ hhi => sameOutside_store s b i bytes x (by omega)⟩

/-- A received byte goes into RAW (R142). -/
theorem keepsFrame_appended (s : State) (b : Byte) : KeepsFrame s (s.appended b) :=
  keepsFrame_store (b := .raw) (by decide) s s.rawLen.toNat [b]

theorem keepsFrame_rxWait (s : State) : KeepsFrame s (rxWait hw s) := by
  have hwaited : KeepsFrame s (s.waited hw) := keepsFrame_of_mem_eq rfl rfl
  have hpopped : ∀ rest, KeepsFrame s ((s.waited hw).popped rest) := fun _ => keepsFrame_of_mem_eq rfl rfl
  rcases rxWait_cases hw s with
    ⟨-, e⟩ | ⟨-, -, e⟩ | ⟨rest, -, -, e⟩ | ⟨b, rest, -, -, -, -, e⟩ | ⟨b, rest, -, -, -, -, e⟩ <;> rw [e]
  · exact hwaited.trans (keepsFrame_raise (by simp) ..)
  · exact hwaited
  · exact hpopped rest
  · exact (hpopped rest).trans (keepsFrame_raise (by simp) ..)
  · have happ := (hpopped rest).trans (keepsFrame_appended _ b)
    split
    · exact happ.trans (keepsFrame_phaseDone _)
    · exact happ

theorem keepsFrame_recvStep (s : State) : KeepsFrame s (recvStep hw s) := by
  unfold recvStep
  split
  · exact keepsFrame_of_mem_eq rfl rfl
  · exact keepsFrame_rxWait s

/-- A pass writes into MSG (R161). -/
theorem keepsFrame_keepPass (s : State) (p : Pass) : KeepsFrame s (s.keepPass p) :=
  keepsFrame_store (b := .msg) (by decide) s 0 p.msg

theorem keepsFrame_checkCrc {s : State} (h : s.status.phase ≠ .build) (msg : List Byte) :
    KeepsFrame s (s.checkCrc msg) := by
  rcases checkCrc_cases s msg with ⟨-, e⟩ | ⟨-, e⟩ <;> rw [e]
  · exact keepsFrame_raise (s := s.setCrc (crc16 msg)) h ..
  · exact keepsFrame_phaseDone ((s.setCrc 0).setMsgLen _)

theorem keepsFrame_unstuffPhase {s t : State} (ht : unstuffPhase hw s = .next t) : KeepsFrame s t := by
  have hpass : ∀ p, KeepsFrame s ((s.setPhase .unstuff).keepPass p) := keepsFrame_keepPass (s.setPhase .unstuff)
  rcases unstuffPhase_cases hw s with ⟨i, -, e⟩ | ⟨p, -, e⟩ | ⟨p, -, e⟩ <;> rw [e] at ht <;> cases ht
  · exact (hpass p).trans (keepsFrame_raise (by simp) ..)
  · exact (hpass p).trans (keepsFrame_checkCrc (by simp) p.msg)

theorem keepsFrame_decodePhase {s t : State} {reg : Half} (ht : decodePhase hw reg s = .next t) : KeepsFrame s t := by
  rcases decodePhase_cases hw reg s with ⟨k, n, -, -, e⟩ | ⟨n, se, bytes, e⟩ | ⟨i, -, -, e⟩ <;> rw [e] at ht <;> cases ht
  · exact keepsFrame_raise (s := s.setPhase .decode) (by simp) k n
  · exact keepsFrame_phaseDone ((s.setPhase .decode).putReading _)

theorem keepsFrame_phaseStep {s t : State} {reg : Half} (ht : phaseStep hw reg s = .next t) : KeepsFrame s t := by
  rcases phaseStep_cases hw reg s with ⟨-, e⟩ | ⟨-, e⟩ | ⟨-, e⟩ | ⟨-, e⟩ | ⟨-, e⟩ <;> rw [e] at ht
  · exact keepsFrame_sendStep ht
  · cases ht
    exact keepsFrame_recvStep s
  · exact keepsFrame_unstuffPhase ht
  · exact keepsFrame_decodePhase ht
  · cases ht

/-- Settles O57, by the command and, for READREG, its phase after the first step. -/
theorem onlyBuildWritesTheFrame : Obligations.OnlyBuildWritesTheFrame := by
  intro i s t ht hbuild hreadreg
  cases i with
  | nop | crcclr | crcbyte _ => cases ht; exact keepsFrame_of_mem_eq rfl rfl
  | crcmsg =>
    change crcMsgPhase hw s = .next t at ht
    rcases crcMsgPhase_cases hw s with ⟨bytes, -, e⟩ | ⟨i, -, -, e⟩ <;> rw [e] at ht <;> cases ht
    exact keepsFrame_of_mem_eq rfl rfl
  | build addr reg => exact absurd rfl (hbuild addr reg)
  | send => exact keepsFrame_sendStep ht
  | recv => cases ht; exact keepsFrame_recvStep s
  | unstuff => exact keepsFrame_unstuffPhase ht
  | decode reg => exact keepsFrame_decodePhase ht
  | readreg addr reg =>
    rw [exec_readreg_later (hreadreg addr reg rfl)] at ht
    exact keepsFrame_phaseStep ht

end Sys2Proof.Proofs.FrameWriters
end

section
/-! The receive state machine (spec 42_receive.md): RX_INIT, the cases of RX_WAIT, and the steps that receive a stream up to its first 0x0d. -/

namespace Sys2Proof.Proofs.Receive

open Sys2Proof Sys2Proof.Machine Sys2Proof.Proofs.Scope Sys2Proof.Proofs.Send

/-! ## One step -/

/-- With ENTRY = 1 a RECV step is RX_INIT (R140). -/
theorem recvStep_of_entry {s : State} (h : s.entry = true) (c : Config) : recvStep c s = rxInit c s := if_pos h

/-- With ENTRY = 0 it is RX_WAIT (R140). -/
theorem recvStep_of_not_entry {s : State} (h : s.entry = false) (c : Config) : recvStep c s = rxWait c s := by
  simp [recvStep, h]

/-- After the window RX_WAIT records a timeout (R142, R147). -/
theorem recvStep_of_timeout {s : State} (hentry : s.entry = false) (hlate : 201 ≤ (s.env.nowMs - s.startMs).toNat) :
    recvStep hw s = (s.waited hw).raise .timeout 0 :=
  (recvStep_of_not_entry hentry hw).trans (if_pos hlate)

/-- Within the window RX_WAIT looks at the queue (R142, R147). -/
theorem recvStep_of_within {s : State} (hentry : s.entry = false) (hwin : (s.env.nowMs - s.startMs).toNat ≤ 200) :
    recvStep hw s = takeByte hw (s.waited hw) :=
  (recvStep_of_not_entry hentry hw).trans (if_neg (Nat.not_lt.2 hwin))

/-- With no byte waiting nothing more happens (R142). -/
theorem takeByte_of_empty {s : State} (hq : s.env.rxQueue = []) (c : Config) : takeByte c s = s := by
  simp [takeByte, hq]

/-- A start marker is popped and dropped (R144). -/
theorem takeByte_of_start {s : State} {rest : List Byte} (hq : s.env.rxQueue = startByte :: rest) (c : Config) :
    takeByte c s = s.popped rest := by
  simp [takeByte, hq]

/-- Any other byte is popped and goes to the capacity test (R142). -/
theorem takeByte_of_other {s : State} {b : Byte} {rest : List Byte} (hq : s.env.rxQueue = b :: rest)
    (hb : b ≠ startByte) (c : Config) : takeByte c s = appendRaw c b (s.popped rest) := by
  simp [takeByte, hq, hb]

/-- A full raw buffer is an error whatever the byte is (R146). -/
theorem appendRaw_of_full {c : Config} {s : State} (h : c.rawCap ≤ s.rawLen.toNat) (b : Byte) :
    appendRaw c b s = s.raise .capacityExceeded 2 := if_pos h

/-- Below the capacity the byte is kept, and a 0x0d ends the phase (R142, R145). -/
theorem appendRaw_of_room {c : Config} {s : State} (h : s.rawLen.toNat < c.rawCap) (b : Byte) :
    appendRaw c b s = if b = termByte then (s.appended b).phaseDone else s.appended b := if_neg (Nat.not_le.2 h)

theorem appendRaw_env (c : Config) (b : Byte) (s : State) : (appendRaw c b s).env = s.env := by
  rcases Nat.lt_or_ge s.rawLen.toNat c.rawCap with h | h
  · rw [appendRaw_of_room h]
    split <;> simp
  · rw [appendRaw_of_full h, raise_env]

/-- Whatever becomes of a waiting byte, exactly that one leaves the queue (R142). -/
theorem takeByte_rxQueue {s : State} {b : Byte} {rest : List Byte} (hq : s.env.rxQueue = b :: rest) (c : Config) :
    (takeByte c s).env.rxQueue = rest := by
  by_cases hb : b = startByte
  · rw [takeByte_of_start (hb ▸ hq), popped_env]
  · rw [takeByte_of_other hq hb, appendRaw_env, popped_env]

/-- An error of the RECV phase empties the raw buffer (R233). -/
theorem raise_of_recv {s : State} (hp : s.status.phase = .recv) (e : ErrorKind) (info : BitVec 4) :
    s.raise e info = { s with rawLen := 0, entry := false, status := s.status.failed .recv e info } := by
  simp [raiseByPhase s e info, hp]

/-- Settles O26: the step is `rxInit`, which takes the whole word of the time here (R7). -/
theorem rxInitResult : Obligations.RxInitResult := fun _ hentry =>
  congrArg Host.Outcome.next (recvStep_of_entry hentry hw)

/-- Settles O27: the window has passed, a byte waits (`takeByte_rxQueue`), none waits. -/
theorem timeoutComesBeforeTheByte : Obligations.TimeoutComesBeforeTheByte := by
  intro s hentry
  refine ⟨fun hlate => congrArg Host.Outcome.next ?_,
    fun hwin => ⟨fun b rest hq => ⟨recvStep hw s, rfl, ?_⟩, fun hq => congrArg Host.Outcome.next ?_⟩⟩
  · rw [recvStep_of_timeout hentry hlate, raise_of_recv rfl, hentry]
    rfl
  · rw [recvStep_of_within hentry hwin]
    exact takeByte_rxQueue (s := s.waited hw) hq hw
  · rw [recvStep_of_within hentry hwin]
    exact takeByte_of_empty (s := s.waited hw) hq hw

/-- A step within the window that finds a start marker (R144). -/
theorem recvStep_of_start {s : State} {rest : List Byte} (hentry : s.entry = false)
    (hwin : (s.env.nowMs - s.startMs).toNat ≤ 200) (hq : s.env.rxQueue = startByte :: rest) :
    recvStep hw s = (s.waited hw).popped rest :=
  (recvStep_of_within hentry hwin).trans (takeByte_of_start (s := s.waited hw) hq hw)

/-- A step within the window that finds another byte (R142). -/
theorem recvStep_of_other {s : State} {b : Byte} {rest : List Byte} (hentry : s.entry = false)
    (hwin : (s.env.nowMs - s.startMs).toNat ≤ 200) (hq : s.env.rxQueue = b :: rest) (hb : b ≠ startByte) :
    recvStep hw s = appendRaw hw b ((s.waited hw).popped rest) :=
  (recvStep_of_within hentry hwin).trans (takeByte_of_other (s := s.waited hw) hq hb hw)

/-- Settles O28: the step pops the marker and does nothing else. -/
theorem startMarkerIsDropped : Obligations.StartMarkerIsDropped := fun _ _ hentry hwin hq =>
  congrArg Host.Outcome.next (recvStep_of_start hentry hwin hq)

/-- RX_WAIT once a byte is kept, before the phase may end (R142). -/
def keptByte (s : State) (b : Byte) (rest : List Byte) : State := ((s.waited hw).popped rest).appended b

/-- A step within the window that keeps a byte (R142, R145). -/
theorem recvStep_of_room {s : State} {b : Byte} {rest : List Byte} (hentry : s.entry = false)
    (hwin : (s.env.nowMs - s.startMs).toNat ≤ 200) (hq : s.env.rxQueue = b :: rest) (hb : b ≠ startByte)
    (hroom : s.rawLen.toNat < 50) :
    recvStep hw s = if b = termByte then (keptByte s b rest).phaseDone else keptByte s b rest :=
  (recvStep_of_other hentry hwin hq hb).trans (appendRaw_of_room (c := hw) (s := (s.waited hw).popped rest) hroom b)

/-- Settles O29, by the capacity test: the kept byte is one store into RAW. -/
theorem receivedByteIsAppended : Obligations.ReceivedByteIsAppended := by
  intro s b rest hentry hwin hq hb
  refine ⟨fun hfull => congrArg Host.Outcome.next ?_, fun hroom => ⟨keptByte s b rest, rfl, ?_, ?_,
    congrArg Host.Outcome.next (recvStep_of_room hentry hwin hq hb hroom)⟩⟩
  · have hcap : hw.rawCap ≤ ((s.waited hw).popped rest).rawLen.toNat := hfull.ge
    rw [recvStep_of_other hentry hwin hq hb, appendRaw_of_full hcap, raise_of_recv rfl, hentry]
    rfl
  · exact (holds_congr (s := s.store .raw s.rawLen.toNat [b]) rfl).2 (holds_store hroom)
  · exact sameOutside_store s .raw s.rawLen.toNat [b]

/-! ## A stream -/

/-- What RX_WAIT keeps of a stream (R144). -/
def withoutStart (stream : List Byte) : List Byte := stream.filter (fun b => b ≠ 0x40)

theorem withoutStart_cons_start (stream : List Byte) : withoutStart (startByte :: stream) = withoutStart stream := rfl

theorem withoutStart_cons_other {b : Byte} (hb : b ≠ startByte) (stream : List Byte) :
    withoutStart (b :: stream) = b :: withoutStart stream :=
  List.filter_cons_of_pos (decide_eq_true hb)

/-- A single RECV between two bytes: in RX_WAIT, within the window (R140, R142). -/
structure Waiting (s : State) : Prop where
  busy : s.status.busy = true
  phase : s.status.phase = .recv
  entry : s.entry = false
  single : s.status.seq = false
  window : (s.env.nowMs - s.startMs).toNat ≤ 200

/-- A dropped byte leaves RECV waiting. -/
theorem waiting_popped {s : State} (h : Waiting s) (rest : List Byte) : Waiting ((s.waited hw).popped rest) :=
  ⟨h.busy, rfl, h.entry, h.single, h.window⟩

/-- So does a kept one. -/
theorem waiting_keptByte {s : State} (h : Waiting s) (b : Byte) (rest : List Byte) : Waiting (keptByte s b rest) :=
  ⟨h.busy, rfl, h.entry, h.single, h.window⟩

/-- A block step of a waiting RECV is a step of its phase (R213). -/
theorem Waiting.blockStep_eq {s : State} (h : Waiting s) : blockStep s = .next (recvStep hw s) := by
  simp [blockStep, laterStep, phaseStep, h.busy, h.phase]

/-- The state a RECV leaves once `bytes` are the last bytes kept and `rest` stays queued (R142, R16). -/
def receivedAll (s : State) (bytes rest : List Byte) : State :=
  { s with
    mem := (s.store .raw s.rawLen.toNat bytes).mem
    rawLen := s.rawLen + BitVec.ofNat 8 bytes.length
    env := { s.env with rxQueue := rest }
    elapsed := s.sinceStart hw
    status := s.status.ended .recv }

/-- What is kept is held in RAW from RAW_LEN on (R142). -/
theorem receivedAll_holds {s : State} {bytes : List Byte} (h : s.rawLen.toNat + bytes.length ≤ 50) (rest : List Byte) :
    (receivedAll s bytes rest).holds .raw s.rawLen.toNat bytes := by
  have hmem : (receivedAll s bytes rest).mem = (s.store .raw s.rawLen.toNat bytes).mem := rfl
  exact (holds_congr hmem).2 (holds_store h)

/-- Nothing else is written. -/
theorem receivedAll_outside (s : State) (bytes rest : List Byte) :
    sameOutside s (receivedAll s bytes rest) (0x80 + s.rawLen.toNat) bytes.length :=
  sameOutside_store s .raw s.rawLen.toNat bytes

/-- A byte dropped first does not count. -/
theorem receivedAll_popped (s : State) (queue bytes rest : List Byte) :
    receivedAll ((s.waited hw).popped queue) bytes rest = receivedAll s bytes rest := rfl

/-- Below the capacity RAW_LEN does not wrap (R142). -/
theorem keptByte_rawLen_toNat {s : State} (hroom : s.rawLen.toNat < 50) (b : Byte) (rest : List Byte) :
    (keptByte s b rest).rawLen.toNat = s.rawLen.toNat + 1 :=
  BitVec.toNat_add_of_lt (show s.rawLen.toNat + 1 < 2 ^ 8 by omega)

/-- A byte kept first counts among those kept. -/
theorem receivedAll_keptByte {s : State} (hroom : s.rawLen.toNat < 50) (b : Byte) (queue bytes rest : List Byte) :
    receivedAll (keptByte s b queue) bytes rest = receivedAll s (b :: bytes) rest := by
  have hlen : (keptByte s b queue).rawLen + BitVec.ofNat 8 bytes.length =
      s.rawLen + BitVec.ofNat 8 (b :: bytes).length := by
    rw [List.length_cons, Nat.add_comm, BitVec.ofNat_add, ← BitVec.add_assoc]
    rfl
  rw [receivedAll, keptByte_rawLen_toNat hroom, hlen]
  rfl

/-- The 0x0d is kept and ends the command (R145). -/
theorem phaseDone_keptByte {s : State} (h : Waiting s) (rest : List Byte) :
    (keptByte s termByte rest).phaseDone = receivedAll s [termByte] rest := by
  rw [phaseDone_of_not_seq (waiting_keptByte h termByte rest).single, receivedAll, h.entry]
  rfl

/-- A waiting RECV with a stream and its 0x0d queued takes one byte a step and ends on the 0x0d
(R142, R144, R145, R150). -/
theorem runBlock_receive {stream rest : List Byte} {s : State} (h : Waiting s) (hterm : termByte ∉ stream)
    (hq : s.env.rxQueue = stream ++ termByte :: rest)
    (hroom : s.rawLen.toNat + (withoutStart stream).length < 50) :
    runBlock (stream.length + 1) s = some (receivedAll s (withoutStart stream ++ [termByte]) rest) := by
  induction stream generalizing s with
  | nil =>
    have hstep := recvStep_of_room h.entry h.window hq (by decide) hroom
    rw [if_pos rfl, phaseDone_keptByte h] at hstep
    exact runBlock_succ (h.blockStep_eq.trans (congrArg _ hstep)) 0
  | cons b stream ih =>
    obtain ⟨hb, hterm'⟩ := not_or.1 (mt List.mem_cons.2 hterm)
    by_cases hstart : b = startByte
    · subst hstart
      have hstep := recvStep_of_start h.entry h.window hq
      rw [withoutStart_cons_start] at hroom ⊢
      rw [List.length_cons, runBlock_succ (h.blockStep_eq.trans (congrArg _ hstep)),
        ← receivedAll_popped s (stream ++ termByte :: rest)]
      exact ih (waiting_popped h _) hterm' rfl hroom
    · rw [withoutStart_cons_other hstart] at hroom ⊢
      rw [List.length_cons] at hroom
      have hlt : s.rawLen.toNat < 50 := by omega
      have hstep := recvStep_of_room h.entry h.window hq hstart hlt
      rw [if_neg (Ne.symm hb)] at hstep
      rw [List.length_cons, runBlock_succ (h.blockStep_eq.trans (congrArg _ hstep)), List.cons_append,
        ← receivedAll_keptByte hlt b (stream ++ termByte :: rest)]
      exact ih (waiting_keptByte h b _) hterm' rfl (by rw [keptByte_rawLen_toNat hlt]; omega)

/-- Settles O30, by induction on the stream (`runBlock_receive`): RAW is one store from cell 0 on. -/
theorem receiveFiltersAndStops : Obligations.ReceiveFiltersAndStops := by
  intro s stream rest hbusy hphase hentry hseq hlen hwin hterm hq hroom
  have hzero : s.rawLen.toNat = 0 := by rw [hlen]; rfl
  have hroom' : s.rawLen.toNat + (withoutStart stream).length < 50 := by
    rw [hzero, Nat.zero_add]
    exact hroom
  have hkept : (withoutStart stream ++ [termByte]).length = (withoutStart stream).length + 1 := List.length_append
  have hholds := receivedAll_holds (bytes := withoutStart stream ++ [termByte]) (by rw [hkept]; exact hroom') rest
  have hother := receivedAll_outside s (withoutStart stream ++ [termByte]) rest
  rw [hzero] at hholds hother
  rw [hkept] at hother
  refine ⟨_, runBlock_receive ⟨hbusy, hphase, hentry, hseq, hwin⟩ hterm hq hroom', ?_, hholds, hother⟩
  rw [receivedAll, hlen, hkept, zero_add]
  rfl

end Sys2Proof.Proofs.Receive
end

section
/-! The unstuffer and the CRC check (spec 43_frame_decode.md R160 to R169): what the pass does with one unit, with a whole raw buffer, and how the UNSTUFF phase ends. -/

namespace Sys2Proof.Proofs.Unstuffing

open Sys2Proof Sys2Proof.Machine Sys2Proof.Proofs.Scope Sys2Proof.Proofs.Stuffing Sys2Proof.Proofs.Stops

/-! ## The pass -/

/-- What a pass has produced once it has also consumed these units (R161, R165). -/
def absorb (p : Pass) (units : List RawItem) : Pass :=
  { msg := p.msg ++ units.map RawItem.byte
    escw := p.escw || !(units.flatMap RawItem.bad).isEmpty
    cnt := p.cnt + BitVec.ofNat 8 (units.flatMap RawItem.bad).length
    bad := (units.flatMap RawItem.bad).getLastD p.bad }

@[simp] theorem absorb_nil (p : Pass) : absorb p [] = p := by simp [absorb]

@[simp] theorem absorb_msg (p : Pass) (units : List RawItem) :
    (absorb p units).msg = p.msg ++ units.map RawItem.byte := rfl

theorem not_isEmpty_append (l m : List Byte) : (!(l ++ m).isEmpty) = (!l.isEmpty || !m.isEmpty) := by
  cases l <;> rfl

theorem absorb_append (p : Pass) (units more : List RawItem) :
    absorb p (units ++ more) = absorb (absorb p units) more := by
  simp [absorb, not_isEmpty_append, BitVec.ofNat_add, BitVec.add_assoc, Bool.or_assoc]

theorem absorb_cons (p : Pass) (u : RawItem) (units : List RawItem) :
    absorb p (u :: units) = absorb (absorb p [u]) units := absorb_append p [u] units

/-- The pass from its start over units alone (R167). -/
theorem absorb_start (units : List RawItem) :
    absorb .start units =
      { msg := units.map RawItem.byte
        escw := !(units.flatMap RawItem.bad).isEmpty
        cnt := BitVec.ofNat 8 (units.flatMap RawItem.bad).length
        bad := (units.flatMap RawItem.bad).getLastD 0 } := by
  simp [absorb, Pass.start]

/-- `put` consumes a copied byte (R161). -/
theorem put_eq_absorb (p : Pass) (b : Byte) : p.put b = absorb p [.plain b] := by
  simp [absorb, Pass.put, RawItem.byte, RawItem.bad]

/-- A pair is malformed where its value is not reserved (R165). -/
theorem bad_pair (y : Byte) :
    (RawItem.pair y).bad = if isEsc (y ^^^ xorMask) then [] else [y ^^^ xorMask] :=
  if_congr isEsc_iff_mem.symm rfl rfl

/-- `note_bad` and `put` consume a pair (R161, R165). -/
theorem put_note_eq_absorb (p : Pass) (y : Byte) :
    (p.note (y ^^^ xorMask)).put (y ^^^ xorMask) = absorb p [.pair y] := by
  have hbyte : (RawItem.pair y).byte = y ^^^ xorMask := rfl
  cases h : isEsc (y ^^^ xorMask) <;> simp [absorb, Pass.put, Pass.note, bad_pair, hbyte, h]

/-- A pair is one turn of the pass, whatever follows it (R161). -/
theorem unstuffPass_pair (cap i : Nat) (y : Byte) (rest : List (Option Byte)) (p : Pass) :
    unstuffPass cap i (some escByte :: some y :: rest) p =
      if p.msg.length < cap then unstuffPass cap (i + 2) rest (absorb p [.pair y])
      else .overflow (p.note (y ^^^ xorMask)) := by
  rw [unstuffPass, if_pos rfl]
  simp only [note_msg, put_note_eq_absorb]

/-- So is a copied byte that is not the last raw byte (R160, R161). -/
theorem unstuffPass_plain {b : Byte} (hb : b ≠ escByte) (cap i : Nat) (next : Option Byte) (rest : List (Option Byte))
    (p : Pass) :
    unstuffPass cap i (some b :: next :: rest) p =
      if p.msg.length < cap then unstuffPass cap (i + 1) (next :: rest) (absorb p [.plain b]) else .overflow p := by
  simp [unstuffPass, hb, put_eq_absorb]

/-- A unit that is not the end of the raw buffer is consumed where there is room for its byte (R161). -/
theorem unstuffPass_unit_of_room {cap : Nat} {p : Pass} {u : RawItem} (hu : u.wf = true)
    (hroom : p.msg.length < cap) (i : Nat) {cells : List (Option Byte)} (hcells : cells ≠ []) :
    unstuffPass cap i (u.wire.map some ++ cells) p =
      unstuffPass cap (i + u.wire.length) cells (absorb p [u]) := by
  cases u with
  | pair y => exact (unstuffPass_pair ..).trans (if_pos hroom)
  | plain b =>
    obtain ⟨next, rest, rfl⟩ := List.exists_cons_of_ne_nil hcells
    exact (unstuffPass_plain (bne_iff_ne.1 hu) ..).trans (if_pos hroom)

/-- At the capacity it is an overflow, and no message byte is written (R164). -/
theorem unstuffPass_unit_of_full {cap : Nat} {p : Pass} {u : RawItem} (hu : u.wf = true)
    (hfull : ¬p.msg.length < cap) (i : Nat) {cells : List (Option Byte)} (hcells : cells ≠ []) :
    ∃ q, unstuffPass cap i (u.wire.map some ++ cells) p = .overflow q ∧ q.msg = p.msg := by
  cases u with
  | pair y => exact ⟨_, (unstuffPass_pair ..).trans (if_neg hfull), note_msg ..⟩
  | plain b =>
    obtain ⟨next, rest, rfl⟩ := List.exists_cons_of_ne_nil hcells
    exact ⟨_, (unstuffPass_plain (bne_iff_ne.1 hu) ..).trans (if_neg hfull), rfl⟩

/-! ## A raw buffer -/

theorem map_rawBytes_cons (u : RawItem) (items : List RawItem) (dangling : Bool) (x : Byte) :
    (rawBytes (u :: items) dangling x).map some = u.wire.map some ++ (rawBytes items dangling x).map some := by
  simp [rawBytes]

/-- The last byte is always there. -/
theorem map_rawBytes_ne_nil (items : List RawItem) (dangling : Bool) (x : Byte) :
    (rawBytes items dangling x).map some ≠ [] := by simp [rawBytes]

theorem rawUnits_cons (u : RawItem) (items : List RawItem) (dangling : Bool) (x : Byte) :
    rawUnits (u :: items) dangling x = u :: rawUnits items dangling x := rfl

/-- A raw buffer whose message fits is consumed unit by unit, the dangling marker with the last byte (R160 to R162). -/
theorem unstuffPass_rawBytes_of_fits {cap : Nat} {items : List RawItem} {dangling : Bool} {x : Byte} {p : Pass}
    (i : Nat) (hwf : ∀ u ∈ items, u.wf = true) (hfits : p.msg.length + (rawUnits items dangling x).length ≤ cap) :
    unstuffPass cap i ((rawBytes items dangling x).map some) p = .done (absorb p (rawUnits items dangling x)) := by
  induction items generalizing i p with
  | nil =>
    cases dangling with
    | false => exact congrArg PassEnd.done (absorb_nil p).symm
    | true => exact (unstuffPass_pair cap i x [] p).trans (if_pos hfits)
  | cons u items ih =>
    rw [rawUnits_cons] at hfits ⊢
    rw [List.length_cons] at hfits
    obtain ⟨hu, hitems⟩ := List.forall_mem_cons.1 hwf
    rw [map_rawBytes_cons, unstuffPass_unit_of_room hu (by omega) i (map_rawBytes_ne_nil _ _ _),
      absorb_cons p u (rawUnits ..)]
    exact ih (p := absorb p [u]) _ hitems (by simp; omega)

/-- A raw buffer whose message does not fit overflows once the buffer is full (R164). -/
theorem unstuffPass_rawBytes_of_not_fits {cap : Nat} {items : List RawItem} {dangling : Bool} {x : Byte} {p : Pass}
    (i : Nat) (hwf : ∀ u ∈ items, u.wf = true) (hp : p.msg.length ≤ cap)
    (hlong : cap < p.msg.length + (rawUnits items dangling x).length) :
    ∃ q, unstuffPass cap i ((rawBytes items dangling x).map some) p = .overflow q ∧
      q.msg = (p.msg ++ (rawUnits items dangling x).map RawItem.byte).take cap := by
  induction items generalizing i p with
  | nil =>
    cases dangling with
    | false => exact absurd hlong (Nat.not_lt.2 hp)
    | true =>
      have hlen : p.msg.length = cap := Nat.le_antisymm hp (Nat.le_of_lt_succ hlong)
      exact ⟨_, (unstuffPass_pair cap i x [] p).trans (if_neg hlen.not_lt),
        by rw [note_msg, List.take_left' hlen]⟩
  | cons u items ih =>
    rw [rawUnits_cons] at hlong ⊢
    rw [List.length_cons] at hlong
    obtain ⟨hu, hitems⟩ := List.forall_mem_cons.1 hwf
    rw [map_rawBytes_cons]
    by_cases hroom : p.msg.length < cap
    · rw [unstuffPass_unit_of_room hu hroom i (map_rawBytes_ne_nil _ _ _)]
      simpa using ih (p := absorb p [u]) _ hitems (by simpa using hroom) (by simp; omega)
    · obtain ⟨q, hq, hmsg⟩ := unstuffPass_unit_of_full hu hroom i (map_rawBytes_ne_nil items dangling x)
      exact ⟨q, hq, by rw [hmsg, List.take_left' (by omega)]⟩

/-! ## The stuffed message -/

/-- The unit that stands for a message byte on the wire (R120, R161). -/
def stuffedItem (b : Byte) : RawItem := if isEsc b then .pair (b ^^^ xorMask) else .plain b

theorem stuffedItem_wire (b : Byte) : (stuffedItem b).wire = stuff b := by
  unfold stuffedItem stuff
  split <;> rfl

/-- Unstuffing complements again what stuffing complemented (R169). -/
theorem xorMask_xorMask (b : Byte) : b ^^^ xorMask ^^^ xorMask = b := by
  rw [BitVec.xor_assoc, BitVec.xor_self, BitVec.xor_zero]

theorem stuffedItem_byte (b : Byte) : (stuffedItem b).byte = b := by
  unfold stuffedItem
  split
  · exact xorMask_xorMask b
  · rfl

/-- Only reserved bytes are stuffed as pairs, so no pair is malformed (R165, R169). -/
theorem stuffedItem_bad (b : Byte) : (stuffedItem b).bad = [] := by
  unfold stuffedItem
  split
  · rw [bad_pair, xorMask_xorMask, if_pos ‹_›]
  · rfl

/-- The marker is reserved, so no copied byte is one (R120). -/
theorem stuffedItem_wf (b : Byte) : (stuffedItem b).wf = true := by
  unfold stuffedItem
  split
  · rfl
  · refine bne_iff_ne.2 fun hb => ?_
    subst hb
    contradiction

theorem rawBytes_stuffedItem (m : List Byte) (x : Byte) :
    rawBytes (m.map stuffedItem) false x = (m.map stuff).flatten ++ [x] := by
  have hwire : RawItem.wire ∘ stuffedItem = stuff := funext stuffedItem_wire
  simp [rawBytes, List.flatMap_def, hwire]

theorem rawUnits_not_dangling (items : List RawItem) (x : Byte) : rawUnits items false x = items :=
  List.append_nil items

/-- Consuming the units of a stuffed message gives the message and notes nothing (R169). -/
theorem absorb_stuffedItem (m : List Byte) :
    absorb .start (m.map stuffedItem) = { msg := m, escw := false, cnt := 0, bad := 0 } := by
  have hbad : (m.map stuffedItem).flatMap RawItem.bad = [] := by simp [stuffedItem_bad]
  have hbyte : RawItem.byte ∘ stuffedItem = id := funext stuffedItem_byte
  rw [absorb_start, hbad, List.map_map, hbyte, List.map_id]
  rfl

/-- Settles O31: a stuffed message is a raw buffer of the units `stuffedItem`. -/
theorem unstuffInvertsStuff : Obligations.UnstuffInvertsStuff := by
  intro cap m x hcap
  have hwf : ∀ u ∈ m.map stuffedItem, u.wf = true := by simp [stuffedItem_wf]
  have hfits : Pass.start.msg.length + (rawUnits (m.map stuffedItem) false x).length ≤ cap := by
    simpa [rawUnits_not_dangling, Pass.start] using hcap
  rw [← rawBytes_stuffedItem, unstuffPass_rawBytes_of_fits 0 hwf hfits, rawUnits_not_dangling, absorb_stuffedItem]

/-! ## The phase -/

/-- The pass of an UNSTUFF over the raw buffer of this hardware (R160, R167). -/
def rawPass (s : State) : PassEnd := unstuffPass hw.msgCap 0 (s.cells hw .raw 0 s.rawLen.toNat) .start

/-- It reads the bytes that the raw buffer holds. -/
theorem rawPass_of_holds {s : State} {bytes : List Byte} (hlen : bytes.length = s.rawLen.toNat)
    (h : s.holds .raw 0 bytes) : rawPass s = unstuffPass hw.msgCap 0 (bytes.map some) .start := by
  rw [rawPass, ← hlen, h]

/-- An error of the UNSTUFF phase empties the message buffer (R233). -/
theorem raise_of_unstuff {s : State} (hp : s.status.phase = .unstuff) (e : ErrorKind) (info : BitVec 4) :
    s.raise e info = { s with msgLen := 0, entry := false, status := s.status.failed .unstuff e info } := by
  simp [raiseByPhase s e info, hp]

/-- UNSTUFF once the pass is kept and its CRC computed, before the phase ends (R166). -/
def checked (s : State) (p : Pass) : State :=
  (((s.setPhase .unstuff).keepPass p).setCrc (crc16 p.msg)).setMsgLen
    (if crc16 p.msg = 0 then BitVec.ofNat 8 p.msg.length else 0)

/-- The CRC check ends the phase from `checked`, with success or with CrcError (R166). -/
theorem checkCrc_keepPass (s : State) (p : Pass) :
    ((s.setPhase .unstuff).keepPass p).checkCrc p.msg =
      if crc16 p.msg = 0 then (checked s p).phaseDone
      else { checked s p with entry := false, status := (checked s p).status.failed .unstuff .crcError 0 } := by
  unfold checked
  rcases checkCrc_cases ((s.setPhase .unstuff).keepPass p) p.msg with ⟨hne, e⟩ | ⟨hzero, e⟩
  · rw [e, if_neg hne, if_neg hne, raise_of_unstuff rfl]
    rfl
  · rw [e, if_pos hzero, if_pos hzero, hzero]

/-- A pass over all raw bytes ends the phase with the CRC check (R166, R167). -/
theorem exec_unstuff_of_done {s : State} {p : Pass} (h : rawPass s = .done p) :
    exec .unstuff s = .next (if crc16 p.msg = 0 then (checked s p).phaseDone
      else { checked s p with entry := false, status := (checked s p).status.failed .unstuff .crcError 0 }) := by
  rw [← checkCrc_keepPass]
  rcases unstuffPhase_cases hw s with ⟨i, hi, -⟩ | ⟨q, hq, -⟩ | ⟨q, hq, e⟩
  · cases h.symm.trans hi
  · cases h.symm.trans hq
  · cases h.symm.trans hq
    exact e

/-- UNSTUFF after an overflow of the pass (R164, R233). -/
def overflowed (s : State) (p : Pass) : State :=
  { s.keepPass p with
    msgLen := 0
    entry := false
    status := { s.status.failed .unstuff .capacityExceeded 3 with escw := p.escw } }

/-- An overflow of the pass ends the phase with the error (R164, R167). -/
theorem exec_unstuff_of_overflow {s : State} {p : Pass} (h : rawPass s = .overflow p) :
    exec .unstuff s = .next (overflowed s p) := by
  rcases unstuffPhase_cases hw s with ⟨i, hi, -⟩ | ⟨q, hq, e⟩ | ⟨q, hq, -⟩
  · cases h.symm.trans hi
  · cases h.symm.trans hq
    rw [raise_of_unstuff rfl] at e
    exact e
  · cases h.symm.trans hq

/-- The message bytes are held in MSG (R161). -/
theorem holds_checked {s : State} {p : Pass} (h : p.msg.length ≤ hw.msgCap) : (checked s p).holds .msg 0 p.msg :=
  (holds_congr (s := s.keepPass p) (t := checked s p) rfl).2 (holds_keepPass h)

/-- No other byte is written (R161). -/
theorem checked_outside (s : State) (p : Pass) : sameOutside s (checked s p) 0xC0 p.msg.length := keepPass_outside s p

/-- Settles O32: the pass consumes the units, and the CRC of their bytes decides. -/
theorem unstuffResult : Obligations.UnstuffResult := by
  intro s items dangling x hwf hlen hraw hfits
  have hcap : Pass.start.msg.length + (rawUnits items dangling x).length ≤ hw.msgCap :=
    (Nat.zero_add _).trans_le hfits
  have hpass := (rawPass_of_holds hlen hraw).trans (unstuffPass_rawBytes_of_fits 0 hwf hcap)
  have hmsg : (absorb .start (rawUnits items dangling x)).msg.length ≤ hw.msgCap := (List.length_map _).trans_le hfits
  refine ⟨checked s (absorb .start (rawUnits items dangling x)), ?_, holds_checked hmsg, checked_outside s _,
    exec_unstuff_of_done hpass⟩
  rw [absorb_start]
  rfl

/-- The first message bytes are held in MSG (R164). -/
theorem holds_overflowed {s : State} {p : Pass} (h : p.msg.length ≤ hw.msgCap) :
    (overflowed s p).holds .msg 0 p.msg :=
  (holds_congr (s := s.keepPass p) (t := overflowed s p) rfl).2 (holds_keepPass h)

/-- Settles O33: the pass overflows with the first 40 message bytes written. -/
theorem unstuffBeyondTheCapacity : Obligations.UnstuffBeyondTheCapacity := by
  intro s items dangling x hwf hlen hraw hlong
  have hcap : hw.msgCap < Pass.start.msg.length + (rawUnits items dangling x).length :=
    hlong.trans_eq (Nat.zero_add _).symm
  obtain ⟨q, hq, hmsg⟩ := unstuffPass_rawBytes_of_not_fits 0 hwf (Nat.zero_le _) hcap
  have hpass := (rawPass_of_holds hlen hraw).trans hq
  have hfirst : q.msg = ((rawUnits items dangling x).map RawItem.byte).take 40 := hmsg
  have hlen40 : q.msg.length = 40 := by
    rw [hfirst, List.length_take, List.length_map]
    omega
  have hholds := holds_overflowed (s := s) hlen40.le
  have hother := keepPass_outside s q
  rw [hfirst] at hholds
  rw [hlen40] at hother
  exact ⟨overflowed s q, exec_unstuff_of_overflow hpass, rfl, hholds, hother⟩

/-- Written raw cells lie within the capacity (R35). -/
theorem rawLen_le_of_written {s : State} (h : s.written .raw s.rawLen.toNat) : s.rawLen.toNat ≤ 50 := by
  by_contra hlt
  obtain ⟨v, hv⟩ := Option.isSome_iff_exists.1 (h 50 (Nat.not_le.1 hlt))
  exact absurd (cell_lt hv) (Nat.lt_irrefl 50)

/-- A malformed pair takes two of at most 50 raw cells (R44). -/
theorem rawPass_cnt_le {s : State} (hlen : s.rawLen.toNat ≤ 50) {p : Pass}
    (h : rawPass s = .done p ∨ rawPass s = .overflow p) : p.cnt.toNat ≤ 32 := by
  have hzero : Pass.start.cnt.toNat = 0 := rfl
  have hbounds := unstuffPass_bounds _ _ _ _ p (Nat.zero_le _) (by rw [cells_length]; omega) h
  rw [cells_length] at hbounds
  omega

/-- Over written raw cells the pass does not stop (R37, R167). -/
theorem rawPass_of_written {s : State} (h : s.written .raw s.rawLen.toNat) :
    ∃ p, rawPass s = .done p ∨ rawPass s = .overflow p := by
  rcases unstuffPhase_cases hw s with ⟨i, -, e⟩ | ⟨p, hp, -⟩ | ⟨p, hp, -⟩
  · rcases unstuffPhase_stop s with ⟨t, ht⟩ | ⟨j, hj, hcell, -⟩
    · cases e.symm.trans ht
    · exact absurd hj (not_lt_of_cell_none h hcell)
  · exact ⟨p, .inr hp⟩
  · exact ⟨p, .inl hp⟩

/-- An empty raw buffer is an empty pass (R160). -/
theorem rawPass_of_empty {s : State} (h : s.rawLen = 0) : rawPass s = .done .start := by
  rw [rawPass, h]
  rfl

/-- Settles O34: the empty pass has CRC 0, and over written cells the phase ends in one of three ways. -/
theorem unstuffCompletesOnWrittenCells : Obligations.UnstuffCompletesOnWrittenCells := by
  refine fun s => ⟨fun hlen => exec_unstuff_of_done (rawPass_of_empty hlen), fun hseq hwritten => ?_⟩
  obtain ⟨p, hend⟩ := rawPass_of_written hwritten
  have hcnt := rawPass_cnt_le (rawLen_le_of_written hwritten) hend
  rcases hend with hdone | hover
  · have hcomplete : (checked s p).phaseDone = (checked s p).complete := phaseDone_of_not_seq hseq
    refine ⟨_, exec_unstuff_of_done hdone, ?_⟩
    rw [hcomplete]
    split
    · exact ⟨rfl, hcnt, rfl, .inl rfl⟩
    · exact ⟨rfl, hcnt, rfl, .inr (.inl rfl)⟩
  · exact ⟨_, exec_unstuff_of_overflow hover, rfl, hcnt, rfl, .inr (.inr rfl)⟩

end Sys2Proof.Proofs.Unstuffing
end

section
/-! Binary32 patterns as numbers (spec 44_value_decode.md R187 to R189): what a finite pattern stands for in units of the smallest subnormal, and its magnitude. -/

namespace Sys2Proof.Proofs.Patterns

open Sys2Proof Sys2Proof.Machine

/-! ## Composing a pattern -/

/-- What a finite pattern stands for, in units of `2^-149`. -/
def ulps (p : ℕ) : ℕ := (p - (p / 2 ^ 23 - 1) * 2 ^ 23) * 2 ^ (p / 2 ^ 23 - 1)

/-- `m` units of `2^e`, the next power of two included, have the pattern `roundRat` composes. -/
theorem ulps_compose {e m : ℕ} (hm : m ≤ 2 ^ 24) (hlow : e = 0 ∨ 2 ^ 23 ≤ m) : ulps (e * 2 ^ 23 + m) = m * 2 ^ e := by
  have hdiv : (e * 2 ^ 23 + m) / 2 ^ 23 = e + m / 2 ^ 23 := by omega
  rw [ulps, hdiv]
  rcases hm.lt_or_eq with hlt | rfl
  · have he : e + m / 2 ^ 23 - 1 = e := by omega
    rw [he, Nat.add_sub_cancel_left]
  · have he : e + 2 ^ 24 / 2 ^ 23 - 1 = e + 1 := by omega
    have hm : e * 2 ^ 23 + 2 ^ 24 - (e + 1) * 2 ^ 23 = 2 ^ 23 := by omega
    rw [he, hm, pow_succ]
    omega

/-- Every pattern is so composed. -/
theorem exists_compose (p : ℕ) : ∃ e m : ℕ, p = e * 2 ^ 23 + m ∧ m < 2 ^ 24 ∧ (e = 0 ∨ 2 ^ 23 ≤ m) :=
  ⟨p / 2 ^ 23 - 1, p - (p / 2 ^ 23 - 1) * 2 ^ 23, by omega, by omega, by omega⟩

/-- Two composed patterns for one number are the same: `m` units are `2^24` where a larger unit counts them too. -/
theorem compose_unique {e f k m : ℕ} (hfe : e ≤ f) (hlow : f = 0 ∨ 2 ^ 23 ≤ k) (hm : m ≤ 2 ^ 24)
    (heq : k * 2 ^ (f - e) = m) : f * 2 ^ 23 + k = e * 2 ^ 23 + m := by
  obtain ⟨j, rfl⟩ := Nat.exists_eq_add_of_le hfe
  rw [Nat.add_sub_cancel_left] at heq
  match j with
  | 0 => omega
  | 1 => omega
  | j + 2 =>
    have hfour : k * 4 ≤ k * 2 ^ (j + 2) := Nat.mul_le_mul_left k (Nat.pow_le_pow_right two_pos (Nat.le_add_left 2 j))
    omega

/-! ## The magnitude of a word -/

theorem toNat_and_mask (a : Word) : (a &&& 0x7FFFFFFF).toNat = a.toNat % 2 ^ 31 := by
  rw [BitVec.toNat_and]
  exact Nat.and_two_pow_sub_one_eq_mod _ 31

theorem toNat_exponentField (a : Word) : (a.extractLsb' 23 8).toNat = a.toNat % 2 ^ 31 / 2 ^ 23 := by
  rw [BitVec.extractLsb'_toNat, Nat.shiftRight_eq_div_pow]
  omega

theorem toNat_fractionField (a : Word) : (a.extractLsb' 0 23).toNat = a.toNat % 2 ^ 31 % 2 ^ 23 := by
  rw [BitVec.extractLsb'_toNat, Nat.shiftRight_eq_div_pow]
  omega

/-- A pattern below infinity, its sign apart, is finite. -/
theorem magnitude_of_finite {a : Word} (h : a &&& 0x7FFFFFFF < 0x7F800000) :
    ∃ m k, magnitude a = .fin m k ∧ m * 2 ^ k = ulps (a &&& 0x7FFFFFFF).toNat := by
  have hlt : (a &&& 0x7FFFFFFF).toNat < 0x7F800000 := h
  rw [toNat_and_mask] at hlt ⊢
  simp only [magnitude, toNat_exponentField, toNat_fractionField]
  obtain ⟨e, m, hp, hm, hlow⟩ := exists_compose (a.toNat % 2 ^ 31)
  rw [hp, ulps_compose hm.le hlow]
  rw [if_neg (by omega)]
  split
  · have he : e = 0 := by omega
    have hfrac : (e * 2 ^ 23 + m) % 2 ^ 23 = m := by omega
    exact ⟨_, _, rfl, by rw [hfrac, he]⟩
  · have hfrac : (e * 2 ^ 23 + m) % 2 ^ 23 + 2 ^ 23 = m := by omega
    have he : (e * 2 ^ 23 + m) / 2 ^ 23 - 1 = e := by omega
    exact ⟨_, _, rfl, by rw [hfrac, he]⟩

theorem magnitude_of_inf {a : Word} (h : a &&& 0x7FFFFFFF = 0x7F800000) : magnitude a = .inf := by
  have heq : a.toNat % 2 ^ 31 = 0x7F800000 := by rw [← toNat_and_mask, h]; rfl
  simp only [magnitude, toNat_exponentField, toNat_fractionField, heq]
  rfl

theorem patternValue_of_finite {a : Word} (h : a &&& 0x7FFFFFFF < 0x7F800000) :
    patternValue a = ulps (a &&& 0x7FFFFFFF).toNat / 2 ^ 149 := by
  obtain ⟨m, k, hmag, hulps⟩ := magnitude_of_finite h
  rw [patternValue, hmag, ← hulps]
  push_cast
  rfl

/-- A finite pattern without a sign is its own magnitude. -/
theorem and_mask_of_lt {p : Word} (h : p < 0x7F800000) : p &&& 0x7FFFFFFF = p := by
  have hlt : p.toNat < 0x7F800000 := h
  apply BitVec.eq_of_toNat_eq
  rw [toNat_and_mask]
  omega

theorem patternValue_of_lt {p : Word} (h : p < 0x7F800000) : patternValue p = ulps p.toNat / 2 ^ 149 := by
  have hmask := and_mask_of_lt h
  rw [patternValue_of_finite (by rwa [hmask]), hmask]

end Sys2Proof.Proofs.Patterns
end

section
/-! Rounding to binary32 (spec 44_value_decode.md R187): to the nearest value, ties to the even pattern. -/

namespace Sys2Proof.Proofs.Rounding

open Sys2Proof Sys2Proof.Machine Sys2Proof.Proofs.Patterns

/-! ## The nearest integer -/

/-- `m` is the integer nearest to `z`, the even one where two are equally near. -/
def Nearest (m : ℕ) (z : ℚ) : Prop := |m - z| ≤ 1 / 2 ∧ (|m - z| = 1 / 2 → Even m)

/-- A quotient is its integer part and a fraction below 1. -/
theorem div_eq_add_fraction (n : ℕ) {d : ℕ} (hd : 0 < d) : (n / d : ℚ) = (n / d : ℕ) + (n % d : ℕ) / d := by
  have hd' : (d : ℚ) ≠ 0 := by positivity
  have h : (n : ℚ) = d * (n / d : ℕ) + (n % d : ℕ) := by exact_mod_cast (Nat.div_add_mod n d).symm
  field_simp
  exact h

/-- `roundDiv` compares the fraction with a half. -/
theorem nearest_roundDiv (n : ℕ) {d : ℕ} (hd : 0 < d) : Nearest (roundDiv n d) (n / d) := by
  have hd' : (0 : ℚ) < d := by exact_mod_cast hd
  rw [div_eq_add_fraction n hd]
  unfold roundDiv
  set q := n / d
  set r := n % d
  have hlt : (r / d : ℚ) < 1 := by
    rw [div_lt_one hd']
    exact_mod_cast Nat.mod_lt n hd
  have hup : d < 2 * r ↔ (1 / 2 : ℚ) < r / d := by
    rw [div_lt_div_iff₀ two_pos hd', one_mul, mul_comm]
    exact_mod_cast Iff.rfl
  have htie : 2 * r = d ↔ (r / d : ℚ) = 1 / 2 := by
    rw [div_eq_div_iff hd'.ne' two_ne_zero, one_mul, mul_comm]
    exact_mod_cast Iff.rfl
  simp only [hup, htie]
  split_ifs with h
  · have habs : |((q + 1 : ℕ) - (q + r / d) : ℚ)| = 1 - r / d := by
      rw [abs_of_nonneg] <;> push_cast <;> linarith
    rw [Nearest, habs]
    refine ⟨?_, fun he => ?_⟩
    · rcases h with h | ⟨h, -⟩ <;> linarith
    · rcases h with h | ⟨-, h⟩
      · linarith
      · exact Nat.even_add_one.2 (by rw [Nat.even_iff]; omega)
  · have habs : |((q : ℕ) - (q + r / d) : ℚ)| = r / d := by
      rw [sub_add_cancel_left, abs_neg, abs_of_nonneg (by positivity)]
    rw [Nearest, habs]
    push Not at h
    exact ⟨h.1, fun he => Nat.even_iff.2 (by have := h.2 he; omega)⟩

namespace Nearest

variable {m : ℕ} {z : ℚ}

theorem bounds (h : Nearest m z) : -(1 / 2) ≤ m - z ∧ m - z ≤ 1 / 2 := abs_le.1 h.1

/-- Every other integer is at least as far, and as far only from a tie. -/
theorem le_abs_sub (h : Nearest m z) {k : ℕ} (hk : k ≠ m) :
    |m - z| ≤ |k - z| ∧ (|m - z| = |k - z| → Even m) := by
  have hone : (1 : ℚ) ≤ |(k : ℚ) - m| := by
    have : (1 : ℤ) ≤ |(k : ℤ) - m| := Int.one_le_abs (by omega)
    exact_mod_cast this
  have htri : |(k : ℚ) - m| ≤ |k - z| + |m - z| := by
    simpa [abs_sub_comm z] using abs_sub_le (k : ℚ) z m
  have hhalf := h.1
  exact ⟨by linarith, fun he => h.2 (by linarith)⟩

theorem abs_sub_le (h : Nearest m z) (k : ℕ) : |m - z| ≤ |k - z| := by
  rcases eq_or_ne k m with rfl | hk
  · exact le_rfl
  · exact (h.le_abs_sub hk).1

/-- An even integer is a bound of the rounding where half a unit less is a bound of the number. -/
theorem even_le_iff (h : Nearest m z) {k : ℕ} (hk : Even k) : k ≤ m ↔ (k : ℚ) - 1 / 2 ≤ z := by
  obtain ⟨hlo, hhi⟩ := h.bounds
  constructor
  · intro hkm
    have : (k : ℚ) ≤ m := by exact_mod_cast hkm
    linarith
  · intro hkz
    by_contra hlt
    have hm : (m : ℚ) + 1 ≤ k := by exact_mod_cast Nat.not_le.1 hlt
    have heven : Even m := h.2 (by rw [abs_of_nonpos] <;> linarith)
    have hkm : k = m + 1 := by
      have : (k : ℚ) ≤ m + 1 := by linarith
      exact le_antisymm (by exact_mod_cast this) (by exact_mod_cast hm)
    subst hkm
    exact Nat.even_add_one.1 hk heven

/-- The rounding is between the integers that the number is between. -/
theorem le_of_le (h : Nearest m z) {k : ℕ} (hk : k ≤ z) : k ≤ m := by
  by_contra hlt
  have hm : (m : ℚ) + 1 ≤ k := by exact_mod_cast Nat.not_le.1 hlt
  linarith [h.bounds.1]

theorem ge_of_ge (h : Nearest m z) {k : ℕ} (hk : z ≤ k) : m ≤ k := by
  by_contra hlt
  have hm : (k : ℚ) + 1 ≤ m := by exact_mod_cast Nat.not_le.1 hlt
  linarith [h.bounds.2]

/-- An integer is rounded to itself. -/
theorem eq_of_eq (h : Nearest m z) {k : ℕ} (hk : z = k) : m = k :=
  le_antisymm (h.ge_of_ge hk.le) (h.le_of_le hk.ge)

end Nearest

/-! ## Exponents -/

/-- `powLe` compares with a power of two. -/
theorem powLe_iff (e : ℤ) (n : ℕ) {d : ℕ} (hd : 0 < d) : powLe e n d = true ↔ (2 : ℚ) ^ e ≤ n / d := by
  have hd' : (0 : ℚ) < d := by exact_mod_cast hd
  rw [le_div_iff₀ hd']
  cases e with
  | ofNat k =>
    simp only [powLe, decide_eq_true_eq, Int.ofNat_eq_natCast, zpow_natCast]
    exact_mod_cast Iff.rfl
  | negSucc k =>
    simp only [powLe, decide_eq_true_eq, zpow_negSucc]
    rw [inv_mul_le_iff₀ (by positivity), mul_comm]
    exact_mod_cast Iff.rfl

/-- `ratLog2` is the exponent of `n/d`. -/
theorem ratLog2_spec {n d : ℕ} (hn : n ≠ 0) (hd : 0 < d) :
    (2 : ℚ) ^ ratLog2 n d ≤ n / d ∧ (n / d : ℚ) < 2 ^ (ratLog2 n d + 1) := by
  have hd' : (0 : ℚ) < d := by exact_mod_cast hd
  have hlo : (2 : ℚ) ^ ((n.log2 : ℤ) - d.log2 - 1) ≤ n / d := by
    rw [le_div_iff₀ hd', sub_sub, zpow_sub₀ two_ne_zero, div_mul_eq_mul_div, div_le_iff₀ (by positivity)]
    exact_mod_cast Nat.mul_le_mul (Nat.log2_self_le hn) Nat.lt_log2_self.le
  have hhi : (n / d : ℚ) < 2 ^ ((n.log2 : ℤ) - d.log2 + 1) := by
    rw [div_lt_iff₀ hd', sub_add_eq_add_sub, zpow_sub₀ two_ne_zero, div_mul_eq_mul_div, lt_div_iff₀ (by positivity)]
    exact_mod_cast Nat.mul_lt_mul_of_lt_of_le Nat.lt_log2_self (Nat.log2_self_le hd.ne') hd
  unfold ratLog2
  by_cases h : powLe ((n.log2 : ℤ) - d.log2) n d = true
  · rw [if_pos h]
    exact ⟨(powLe_iff _ n hd).1 h, hhi⟩
  · rw [if_neg h, sub_add_cancel]
    exact ⟨hlo, not_le.1 (mt (powLe_iff _ n hd).2 h)⟩

/-- `inUnits` counts in units of `2^u`. -/
theorem nearest_inUnits (u : ℤ) (n : ℕ) {d : ℕ} (hd : 0 < d) : Nearest (inUnits u n d) (n / d / 2 ^ u) := by
  cases u with
  | ofNat k =>
    have h := nearest_roundDiv n (d := d * 2 ^ k) (by positivity)
    push_cast at h
    rwa [← div_div] at h
  | negSucc k =>
    have h := nearest_roundDiv (n * 2 ^ (k + 1)) hd
    push_cast at h
    rwa [zpow_negSucc, div_inv_eq_mul, div_mul_eq_mul_div]

/-! ## The rounding -/

/-- `y` is rounded to `m` units of `2^e`, where it fits 24 bits, and no fewer of them in a larger binade. -/
structure RoundsAt (y : ℚ) (e m : ℕ) : Prop where
  nearest : Nearest m (y / 2 ^ e)
  low : e = 0 ∨ 2 ^ 23 ≤ y / 2 ^ e
  high : y / 2 ^ e < 2 ^ 24

theorem toNat_inf : infPattern.toNat = 0x7F800000 := rfl

/-- `roundRat` rounds in units of `2^e` and composes the pattern. -/
theorem roundRat_spec (n : ℕ) {d : ℕ} (hd : 0 < d) :
    ∃ e m : ℕ, RoundsAt (n / d * 2 ^ 149) e m ∧
      roundRat n d = if 0x7F800000 ≤ e * 2 ^ 23 + m then infPattern else BitVec.ofNat 32 (e * 2 ^ 23 + m) := by
  by_cases hn : n = 0
  · subst hn
    exact ⟨0, 0, ⟨by simp [Nearest], .inl rfl, by simp⟩, by simp [roundRat]⟩
  obtain ⟨hlo, hhi⟩ := ratLog2_spec hn hd
  simp only [roundRat, if_neg hn, toNat_inf]
  set e := max (ratLog2 n d) (-126) with he
  have hscale : (n / d * 2 ^ 149 / 2 ^ (e + 126).toNat : ℚ) = n / d / 2 ^ (e - 23) := by
    have hexp : ((149 : ℕ) : ℤ) - (e + 126).toNat = -(e - 23) := by omega
    rw [mul_div_assoc, ← zpow_natCast, ← zpow_natCast, ← zpow_sub₀ two_ne_zero, hexp, zpow_neg, ← div_eq_mul_inv]
  refine ⟨(e + 126).toNat, inUnits (e - 23) n d, ⟨?_, ?_, ?_⟩, rfl⟩
  · rw [hscale]
    exact nearest_inUnits _ _ hd
  · rcases max_choice (ratLog2 n d) (-126) with h | h
    · right
      rw [hscale, le_div_iff₀ (by positivity), he, h]
      calc (2 : ℚ) ^ 23 * 2 ^ (ratLog2 n d - 23) = 2 ^ ratLog2 n d := by
            rw [← zpow_natCast, ← zpow_add₀ two_ne_zero]; simp
        _ ≤ n / d := hlo
    · left; omega
  · rw [hscale, div_lt_iff₀ (by positivity)]
    calc (n / d : ℚ) < 2 ^ (ratLog2 n d + 1) := hhi
      _ ≤ 2 ^ (e + 1) := zpow_le_zpow_right₀ one_le_two (by omega)
      _ = 2 ^ 24 * 2 ^ (e - 23) := by
        rw [← zpow_natCast, ← zpow_add₀ two_ne_zero]
        congr 1
        push_cast
        ring

/-! ## What the rounding keeps -/

/-- Distances from `y` in units of `2^e`. -/
theorem abs_mul_sub (y k : ℚ) (e : ℕ) : |k * 2 ^ e - y| = |k - y / 2 ^ e| * 2 ^ e := by
  have hpos : (0 : ℚ) < 2 ^ e := by positivity
  calc |k * 2 ^ e - y| = |(k - y / 2 ^ e) * 2 ^ e| := by rw [sub_mul, div_mul_cancel₀ y hpos.ne']
    _ = |k - y / 2 ^ e| * 2 ^ e := by rw [abs_mul, abs_of_pos hpos]

namespace RoundsAt

variable {y : ℚ} {e m : ℕ}

theorem mantissa_le (h : RoundsAt y e m) : m ≤ 2 ^ 24 :=
  h.nearest.ge_of_ge (by exact_mod_cast h.high.le)

theorem mantissa_low (h : RoundsAt y e m) : e = 0 ∨ 2 ^ 23 ≤ m :=
  h.low.imp_right fun hlow => h.nearest.le_of_le (by exact_mod_cast hlow)

theorem ulps_eq (h : RoundsAt y e m) : ulps (e * 2 ^ 23 + m) = m * 2 ^ e := ulps_compose h.mantissa_le h.mantissa_low

/-- A number below the binade of `y` is farther from `y` than the rounding, as the least of the binade already is no nearer. -/
theorem abs_sub_lt_of_below (h : RoundsAt y e m) (he : e ≠ 0) {x : ℚ} (hx : x < 2 ^ 23 * 2 ^ e) :
    |m * 2 ^ e - y| < |x - y| := by
  have hlow : 2 ^ 23 * 2 ^ e ≤ y := (le_div_iff₀ (by positivity)).1 (h.low.resolve_left he)
  have hleast : |(m : ℚ) * 2 ^ e - y| ≤ |(2 ^ 23 : ℕ) * 2 ^ e - y| := by
    rw [abs_mul_sub, abs_mul_sub]
    exact mul_le_mul_of_nonneg_right (h.nearest.abs_sub_le _) (by positivity)
  calc |(m : ℚ) * 2 ^ e - y| ≤ |2 ^ 23 * 2 ^ e - y| := by exact_mod_cast hleast
    _ = y - 2 ^ 23 * 2 ^ e := by rw [abs_sub_comm, abs_of_nonneg (by linarith)]
    _ < y - x := by linarith
    _ ≤ |x - y| := by rw [abs_sub_comm]; exact le_abs_self _

/-- No other pattern is nearer, and none as near unless the rounding is even: a pattern is a multiple of the unit, or it lies below the binade of `y`. -/
theorem nearest_pattern (h : RoundsAt y e m) {q : ℕ} (hq : q ≠ e * 2 ^ 23 + m) :
    |ulps (e * 2 ^ 23 + m) - y| ≤ |ulps q - y| ∧
      (|ulps (e * 2 ^ 23 + m) - y| = |ulps q - y| → Even (e * 2 ^ 23 + m)) := by
  have hpos : (0 : ℚ) < 2 ^ e := by positivity
  have heven : Even m → Even (e * 2 ^ 23 + m) := fun hm => (Even.mul_left (by decide) e).add hm
  obtain ⟨f, k, rfl, hk, hlow⟩ := exists_compose q
  rw [h.ulps_eq, ulps_compose hk.le hlow]
  push_cast
  by_cases hfe : e ≤ f
  · have hmul : (k : ℚ) * 2 ^ f = (k * 2 ^ (f - e) : ℕ) * 2 ^ e := by
      push_cast
      rw [mul_assoc, ← pow_add, Nat.sub_add_cancel hfe]
    have hne : k * 2 ^ (f - e) ≠ m := fun heq => hq (compose_unique hfe hlow h.mantissa_le heq)
    obtain ⟨hle, htie⟩ := h.nearest.le_abs_sub hne
    rw [hmul, abs_mul_sub, abs_mul_sub, mul_le_mul_iff_left₀ hpos, mul_left_inj' hpos.ne']
    exact ⟨hle, fun he => heven (htie he)⟩
  · have hbelow : (k : ℚ) * 2 ^ f < 2 ^ 23 * 2 ^ e :=
      calc (k : ℚ) * 2 ^ f < 2 ^ 24 * 2 ^ f := by gcongr; exact_mod_cast hk
        _ = 2 ^ 23 * 2 ^ (f + 1) := by ring
        _ ≤ 2 ^ 23 * 2 ^ e := by gcongr <;> [norm_num; omega]
    have hlt := h.abs_sub_lt_of_below (by omega) hbelow
    exact ⟨hlt.le, fun he => absurd he hlt.ne⟩

/-- The composed pattern reaches infinity's exactly from half a unit above the largest finite value on. -/
theorem inf_le_iff (h : RoundsAt y e m) : 0x7F800000 ≤ e * 2 ^ 23 + m ↔ ((2 ^ 25 - 1) * 2 ^ 252 : ℚ) ≤ y := by
  have hpos : (0 : ℚ) < 2 ^ e := by positivity
  have hmax := h.mantissa_le
  have hlow := h.mantissa_low
  rcases lt_trichotomy e 253 with he | rfl | he
  · have hy : y < 2 ^ 24 * 2 ^ e := (div_lt_iff₀ hpos).1 h.high
    have hle : (2 : ℚ) ^ e ≤ 2 ^ 252 := pow_le_pow_right₀ one_le_two (by omega)
    exact ⟨fun _ => by omega, fun _ => by linarith⟩
  · have htop := h.nearest.even_le_iff (k := 2 ^ 24) (by decide)
    have hhalf : (((2 ^ 24 : ℕ) : ℚ) - 1 / 2) * 2 ^ 253 = (2 ^ 25 - 1) * 2 ^ 252 := by norm_num
    rw [le_div_iff₀ hpos, hhalf] at htop
    rw [← htop]
    omega
  · have hy : 2 ^ 23 * 2 ^ e ≤ y := (le_div_iff₀ hpos).1 (h.low.resolve_left (by omega))
    have hle : (2 : ℚ) ^ 254 ≤ 2 ^ e := pow_le_pow_right₀ one_le_two he
    exact ⟨fun _ => by linarith, fun _ => by omega⟩

end RoundsAt

/-! ## The nearest pattern -/

/-- The rounding is the composed pattern, or infinity where that is not below infinity's. -/
theorem roundRat_cases (n : ℕ) {d : ℕ} (hd : 0 < d) :
    ∃ e m : ℕ, RoundsAt (n / d * 2 ^ 149) e m ∧
      ((0x7F800000 ≤ e * 2 ^ 23 + m ∧ roundRat n d = 0x7F800000) ∨
        (roundRat n d < 0x7F800000 ∧ (roundRat n d).toNat = e * 2 ^ 23 + m)) := by
  obtain ⟨e, m, hat, hval⟩ := roundRat_spec n hd
  refine ⟨e, m, hat, ?_⟩
  by_cases hinf : 0x7F800000 ≤ e * 2 ^ 23 + m
  · exact .inl ⟨hinf, hval.trans (if_pos hinf)⟩
  · rw [if_neg hinf] at hval
    have htoNat : (roundRat n d).toNat = e * 2 ^ 23 + m := by
      rw [hval, BitVec.toNat_ofNat]
      omega
    exact .inr ⟨BitVec.lt_def.2 (htoNat.trans_lt (not_le.1 hinf)), htoNat⟩

theorem abs_patternValue_sub {p : Word} (h : p < 0x7F800000) (x : ℚ) :
    |patternValue p - x| = |ulps p.toNat - x * 2 ^ 149| / 2 ^ 149 := by
  have hpos : (0 : ℚ) < 2 ^ 149 := by positivity
  rw [patternValue_of_lt h, ← abs_of_pos hpos, ← abs_div, abs_of_pos hpos, sub_div, mul_div_cancel_right₀ _ hpos.ne']

theorem getLsbD_zero_of_even {p : Word} (h : Even p.toNat) : p.getLsbD 0 = false := by
  rw [BitVec.getLsbD, Nat.testBit_zero, Nat.even_iff.1 h]
  rfl

/-- Settles O38: the rounding is nearest in its own unit, and no pattern between its units is nearer. -/
theorem roundingIsToNearestEven : Obligations.RoundingIsToNearestEven := by
  intro n d hd
  have hpos : (0 : ℚ) < 2 ^ 149 := by positivity
  have hscale : ((2 ^ 25 - 1) * 2 ^ 252 : ℚ) ≤ n / d * 2 ^ 149 ↔ ((2 ^ 25 - 1) * 2 ^ 103 : ℚ) ≤ n / d := by
    rw [← mul_le_mul_iff_left₀ (b := ((2 ^ 25 - 1) * 2 ^ 103 : ℚ)) hpos, mul_assoc _ (2 ^ 103), ← pow_add]
  obtain ⟨e, m, hat, ⟨hinf, hval⟩ | ⟨hlt, hval⟩⟩ := roundRat_cases n hd
  · exact ⟨iff_of_true hval (hscale.1 (hat.inf_le_iff.1 hinf)), fun hne => absurd hval hne⟩
  · have hfin : ¬0x7F800000 ≤ e * 2 ^ 23 + m := hval ▸ not_le.2 (BitVec.lt_def.1 hlt)
    refine ⟨iff_of_false (BitVec.ne_of_lt hlt) (mt hscale.2 (mt hat.inf_le_iff.2 hfin)), fun _ => ⟨hlt, fun q hq => ?_⟩⟩
    rw [abs_patternValue_sub hlt, abs_patternValue_sub hq, div_le_div_iff_of_pos_right hpos, div_left_inj' hpos.ne']
    rcases eq_or_ne q (roundRat n d) with rfl | hne
    · exact ⟨le_rfl, fun h => absurd rfl h⟩
    · have hne' : q.toNat ≠ e * 2 ^ 23 + m := hval ▸ mt BitVec.eq_of_toNat_eq hne
      obtain ⟨hle, htie⟩ := hat.nearest_pattern hne'
      rw [← hval] at hle htie
      exact ⟨hle, fun _ he => getLsbD_zero_of_even (htie he)⟩

/-! ## Bounds of the rounding -/

/-- A rounding has no sign and is not a NaN. -/
theorem roundRat_le_inf (n : ℕ) {d : ℕ} (hd : 0 < d) : roundRat n d ≤ 0x7F800000 := by
  obtain ⟨-, -, -, ⟨-, hval⟩ | ⟨hlt, -⟩⟩ := roundRat_cases n hd
  · exact BitVec.le_of_eq hval
  · exact BitVec.le_of_lt hlt

/-- A rational below `2^128` less half a unit is not rounded to infinity (R187). -/
theorem roundRat_lt_inf {n d : ℕ} (hd : 0 < d) (h : (n / d : ℚ) < (2 ^ 25 - 1) * 2 ^ 103) :
    roundRat n d < 0x7F800000 := by
  obtain ⟨hinf, hfin⟩ := roundingIsToNearestEven n d hd
  exact (hfin (mt hinf.1 (not_le.2 h))).1

end Sys2Proof.Proofs.Rounding
end

section
/-! Conversion and multiplication (spec 44_value_decode.md R188, R189): exact small integers, and products rounded once. -/

namespace Sys2Proof.Proofs.Arithmetic

open Sys2Proof Sys2Proof.Machine Sys2Proof.Proofs.Patterns Sys2Proof.Proofs.Rounding

/-! ## The sign -/

/-- The sign of a product is the XOR of the signs (R189). -/
theorem withSign_xor (a b p : Word) :
    withSign (a.getLsbD 31 ^^ b.getLsbD 31) p = p ^^^ ((a ^^^ b) &&& 0x80000000) := by
  have hsign : (a ^^^ b) &&& 0x80000000 = if a.getLsbD 31 ^^ b.getLsbD 31 then 0x80000000#32 else 0#32 := by
    rw [← BitVec.getLsbD_xor]
    exact BitVec.and_twoPow (a ^^^ b) 31
  rw [hsign, withSign]
  split <;> simp

theorem withSign_and_mask (s : Bool) (p : Word) : withSign s p &&& 0x7FFFFFFF = p &&& 0x7FFFFFFF := by
  cases s with
  | false => rfl
  | true =>
    apply BitVec.eq_of_toNat_eq
    rw [toNat_and_mask, toNat_and_mask, withSign, if_pos rfl, BitVec.toNat_xor, Nat.xor_mod_two_pow]
    exact Nat.xor_zero _

theorem getLsbD_of_le_inf {p : Word} (h : p ≤ 0x7F800000) : p.getLsbD 31 = false :=
  Nat.testBit_lt_two_pow (lt_of_le_of_lt (BitVec.le_def.1 h) (by decide))

theorem getLsbD_withSign (s : Bool) {p : Word} (h : p ≤ 0x7F800000) : (withSign s p).getLsbD 31 = s := by
  cases s with
  | false => exact getLsbD_of_le_inf h
  | true => rw [withSign, if_pos rfl, BitVec.getLsbD_xor, getLsbD_of_le_inf h]; rfl

theorem and_mask_withSign (s : Bool) {p : Word} (h : p < 0x7F800000) : withSign s p &&& 0x7FFFFFFF = p := by
  rw [withSign_and_mask, and_mask_of_lt h]

theorem patternValue_withSign (s : Bool) {p : Word} (h : p < 0x7F800000) :
    patternValue (withSign s p) = patternValue p := by
  have hmask := and_mask_withSign s h
  rw [patternValue_of_finite (hmask.symm ▸ h), hmask, patternValue_of_lt h]

theorem signedValue_withSign (s : Bool) {p : Word} (h : p < 0x7F800000) :
    signedValue (withSign s p) = if s then -patternValue p else patternValue p := by
  rw [signedValue, getLsbD_withSign s (BitVec.le_of_lt h), patternValue_withSign s h]

/-! ## Conversion -/

/-- An integer up to `2^24` is a whole number of the units it is rounded in. -/
theorem isInteger_of_roundsAt {k e m : ℕ} (hk : k ≤ 2 ^ 24) (h : RoundsAt (k * 2 ^ 149) e m) :
    ∃ j : ℕ, (k * 2 ^ 149 / 2 ^ e : ℚ) = j := by
  by_cases he : e ≤ 149
  · refine ⟨k * 2 ^ (149 - e), ?_⟩
    rw [div_eq_iff (by positivity), Nat.cast_mul, Nat.cast_pow, Nat.cast_ofNat, mul_assoc, ← pow_add,
      Nat.sub_add_cancel he]
  · obtain ⟨i, rfl⟩ := Nat.exists_eq_add_of_le (Nat.not_le.1 he)
    have hlow : 2 ^ 23 * 2 ^ (150 + i) ≤ k * 2 ^ 149 := by
      exact_mod_cast (le_div_iff₀ (by positivity)).1 (h.low.resolve_left (by omega))
    rw [pow_add] at hlow
    have hi : i = 0 := by
      by_contra hne
      have := Nat.one_lt_two_pow hne
      omega
    subst hi
    have hk' : k = 2 ^ 24 := by omega
    exact ⟨2 ^ 23, by rw [hk']; norm_num⟩

/-- An integer in the range of a 32-bit word is not rounded to infinity (R188). -/
theorem roundRat_natCast_lt_inf {k : ℕ} (hk : k ≤ 2 ^ 31) : roundRat k 1 < 0x7F800000 := by
  have hk' : (k : ℚ) ≤ 2 ^ 31 := by exact_mod_cast hk
  exact roundRat_lt_inf one_pos (by rw [Nat.cast_one, div_one]; linarith)

/-- An integer up to `2^24` is its own rounding (R188). -/
theorem patternValue_roundRat_natCast {k : ℕ} (hk : k ≤ 2 ^ 24) : patternValue (roundRat k 1) = k := by
  have hlt := roundRat_natCast_lt_inf (hk.trans (by decide))
  obtain ⟨e, m, hat, ⟨-, hval⟩ | ⟨-, hval⟩⟩ := roundRat_cases k one_pos
  · exact absurd hval (BitVec.ne_of_lt hlt)
  · rw [Nat.cast_one, div_one] at hat
    obtain ⟨j, hj⟩ := isInteger_of_roundsAt hk hat
    have hm : m = j := hat.nearest.eq_of_eq hj
    rw [patternValue_of_lt hlt, hval, hat.ulps_eq, hm]
    push_cast
    rw [← hj]
    field_simp

/-- Settles O39: the magnitude is exact, and the sign is kept. -/
theorem smallIntegersConvertExactly : Obligations.SmallIntegersConvertExactly := by
  refine ⟨fun x hlo hhi => ?_, rfl⟩
  have hlt := roundRat_natCast_lt_inf (k := x.natAbs) (by omega)
  have hvalue := patternValue_roundRat_natCast (k := x.natAbs) (by omega)
  refine ⟨?_, ?_⟩
  · rw [cvt32, signedValue_withSign _ hlt, hvalue, Nat.cast_natAbs]
    by_cases hx : x < 0
    · simp [hx, abs_of_neg hx]
    · simp [hx, abs_of_nonneg (not_lt.1 hx)]
  · rwa [cvt32, and_mask_withSign _ hlt]

/-! ## Multiplication -/

theorem fmul32_comm (a b : Word) : fmul32 a b = fmul32 b a := by
  unfold fmul32
  rw [Bool.xor_comm]
  cases magnitude a with
  | nan | inf => cases magnitude b <;> rfl
  | fin m j =>
    cases magnitude b with
    | nan | inf => rfl
    | fin n k =>
      show withSign _ (roundRat (m * n * 2 ^ (j + k)) _) = withSign _ (roundRat (n * m * 2 ^ (k + j)) _)
      rw [Nat.mul_comm m, Nat.add_comm j]

section

variable {a b : Word} {m n j k : ℕ}

theorem fmul32_fin_fin (ha : magnitude a = .fin m j) (hb : magnitude b = .fin n k) :
    fmul32 a b = withSign (a.getLsbD 31 ^^ b.getLsbD 31) (roundRat (m * n * 2 ^ (j + k)) (2 ^ 298)) := by
  unfold fmul32
  rw [ha, hb]

theorem fmul32_inf_fin (ha : magnitude a = .inf) (hb : magnitude b = .fin n k) :
    fmul32 a b = if n = 0 then nanPattern else withSign (a.getLsbD 31 ^^ b.getLsbD 31) infPattern := by
  unfold fmul32
  rw [ha, hb]

theorem fmul32_inf_inf (ha : magnitude a = .inf) (hb : magnitude b = .inf) :
    fmul32 a b = withSign (a.getLsbD 31 ^^ b.getLsbD 31) infPattern := by
  unfold fmul32
  rw [ha, hb]

theorem patternValue_fin (ha : magnitude a = .fin m j) : patternValue a = m * 2 ^ j / 2 ^ 149 := by
  rw [patternValue, ha]

end

/-- Two finite factors. -/
theorem fmul32_of_finite {a b : Word} (ha : a &&& 0x7FFFFFFF < 0x7F800000) (hb : b &&& 0x7FFFFFFF < 0x7F800000) :
    ∃ n d : ℕ, 0 < d ∧ (n : ℚ) / d = patternValue a * patternValue b ∧
      fmul32 a b = withSign (a.getLsbD 31 ^^ b.getLsbD 31) (roundRat n d) := by
  obtain ⟨m, j, hma, -⟩ := magnitude_of_finite ha
  obtain ⟨n, k, hmb, -⟩ := magnitude_of_finite hb
  refine ⟨_, _, pow_pos two_pos _, ?_, fmul32_fin_fin hma hmb⟩
  rw [patternValue_fin hma, patternValue_fin hmb, div_mul_div_comm, mul_mul_mul_comm, ← pow_add, ← pow_add,
    Nat.cast_mul, Nat.cast_mul, Nat.cast_pow, Nat.cast_pow, Nat.cast_ofNat]

theorem ulps_eq_zero_iff (p : ℕ) : ulps p = 0 ↔ p = 0 := by
  obtain ⟨e, m, rfl, hm, hlow⟩ := exists_compose p
  rw [ulps_compose hm.le hlow, Nat.mul_eq_zero]
  have := Nat.two_pow_pos e
  omega

/-- An infinite factor, the other one not a NaN. -/
theorem fmul32_of_inf {a b : Word} (ha : a &&& 0x7FFFFFFF = 0x7F800000) (hb : b &&& 0x7FFFFFFF ≤ 0x7F800000) :
    fmul32 a b =
      if b &&& 0x7FFFFFFF = 0 then nanPattern else withSign (a.getLsbD 31 ^^ b.getLsbD 31) infPattern := by
  have hma := magnitude_of_inf ha
  by_cases heq : b &&& 0x7FFFFFFF = 0x7F800000
  · rw [fmul32_inf_inf hma (magnitude_of_inf heq), heq]
    rfl
  · obtain ⟨m, k, hmb, hulps⟩ := magnitude_of_finite (a := b) (by bv_omega)
    have hzero : m = 0 ↔ b &&& 0x7FFFFFFF = 0 := by
      calc m = 0 ↔ m * 2 ^ k = 0 := by simp
        _ ↔ (b &&& 0x7FFFFFFF).toNat = 0 := by rw [hulps, ulps_eq_zero_iff]
        _ ↔ b &&& 0x7FFFFFFF = 0 := by rw [BitVec.toNat_eq]; rfl
    rw [fmul32_inf_fin hma hmb]
    simp only [hzero]

/-- Settles O40: by what the factors stand for. -/
theorem multiplicationRoundsOnce : Obligations.MultiplicationRoundsOnce := by
  refine fun a b => ⟨fun ha hb => ?_, fun ha hb => ⟨fun hzero => ?_, fun hne => ?_⟩⟩
  · obtain ⟨n, d, hd, hval, hmul⟩ := fmul32_of_finite ha hb
    exact ⟨n, d, hd, hval, by rw [hmul, withSign_xor]⟩
  · rw [fmul32_comm b a, fmul32_of_inf ha hb, if_pos hzero]
    exact ⟨rfl, rfl⟩
  · rw [fmul32_comm b a, fmul32_of_inf ha hb, if_neg hne, withSign_xor]
    exact ⟨rfl, rfl⟩

end Sys2Proof.Proofs.Arithmetic
end

section
/-! The scale (spec 44_value_decode.md R186, R187, R190): the table of powers of ten, and where the sign goes. -/

namespace Sys2Proof.Proofs.Scale

open Sys2Proof Sys2Proof.Machine Sys2Proof.Proofs.Patterns Sys2Proof.Proofs.Rounding Sys2Proof.Proofs.Arithmetic

/-- Settles O37: by evaluation, entry by entry. -/
theorem powersOfTenAreRounded : Obligations.PowersOfTenAreRounded := by
  unfold Obligations.PowersOfTenAreRounded
  decide +kernel

/-- The powers of ten below 10^39 are finite (R187). -/
theorem pow10_32_lt {e : ℤ} (hlo : -63 ≤ e) (he : e < 39) : pow10_32 e < 0x7F800000 := by
  obtain ⟨hup, hdown⟩ := powersOfTenAreRounded
  obtain ⟨k, rfl | rfl⟩ := e.eq_nat_or_neg
  · rw [hup k (List.mem_range.2 (by omega))]
    have hle : (10 : ℚ) ^ k ≤ 10 ^ 38 := pow_le_pow_right₀ (by norm_num) (by omega)
    refine roundRat_lt_inf one_pos ?_
    push_cast
    linarith
  · rw [hdown k (List.mem_range.2 (by omega))]
    refine roundRat_lt_inf (by positivity) ?_
    have hle : (1 : ℚ) ≤ 10 ^ k := one_le_pow₀ (by norm_num)
    push_cast
    rw [div_lt_iff₀ (by positivity)]
    linarith

/-- Beyond it the power of ten is infinite. -/
theorem pow10_32_of_ge {e : ℤ} (he : 39 ≤ e) : pow10_32 e = infPattern := by
  rw [pow10_32, if_neg (by omega), if_pos he]

/-! ## Products of magnitudes with signs -/

section

variable {p q : Word} (r s : Bool)

theorem fmul32_withSign (hp : p < 0x7F800000) (hq : q < 0x7F800000) :
    ∃ n d : ℕ, 0 < d ∧ (n : ℚ) / d = patternValue p * patternValue q ∧
      fmul32 (withSign r p) (withSign s q) = withSign (r ^^ s) (roundRat n d) := by
  have hprod := fmul32_of_finite (a := withSign r p) (b := withSign s q)
    (by rwa [and_mask_withSign r hp]) (by rwa [and_mask_withSign s hq])
  rwa [patternValue_withSign r hp, patternValue_withSign s hq, getLsbD_withSign r (BitVec.le_of_lt hp),
    getLsbD_withSign s (BitVec.le_of_lt hq)] at hprod

theorem fmul32_withSign_inf (hp : p < 0x7F800000) :
    fmul32 (withSign r p) (withSign s infPattern) =
      if p = 0 then nanPattern else withSign (r ^^ s) infPattern := by
  have hmask := and_mask_withSign r hp
  have hinf : withSign s infPattern &&& 0x7FFFFFFF = 0x7F800000 := withSign_and_mask s infPattern
  rw [fmul32_comm, fmul32_of_inf hinf (by rw [hmask]; exact BitVec.le_of_lt hp), hmask,
    getLsbD_withSign r (BitVec.le_of_lt hp), getLsbD_withSign s (p := infPattern) (BitVec.le_refl _), Bool.xor_comm]

end

/-! ## The sign is on the scale -/

/-- A positive integer is not rounded to zero (R188). -/
theorem roundRat_natCast_ne_zero {k : ℕ} (hk : k ≠ 0) : roundRat k 1 ≠ 0 := by
  obtain ⟨e, m, hat, ⟨-, hval⟩ | ⟨-, hval⟩⟩ := roundRat_cases k one_pos
  · rw [hval]
    decide
  · intro hzero
    have hcomp : e * 2 ^ 23 + m = 0 := by rw [← hval, hzero]; rfl
    obtain ⟨rfl, rfl⟩ : e = 0 ∧ m = 0 := by omega
    have hone : (1 : ℚ) ≤ k := by exact_mod_cast Nat.one_le_iff_ne_zero.2 hk
    have hz : ((1 : ℕ) : ℚ) ≤ k / (1 : ℕ) * 2 ^ 149 / 2 ^ 0 := by
      push_cast
      linarith
    exact absurd (hat.nearest.le_of_le hz) (by decide)

theorem withSign_false (p : Word) : withSign false p = p := rfl

/-- Two negative factors have a product without a sign, which is not a NaN. -/
theorem value32_of_neg {x : Word} (hx : x.toInt < 0) {e : ℤ} (hlo : -63 ≤ e) : value32 x.toInt e true ≤ 0x7F800000 := by
  have hmin := BitVec.le_toInt x
  have hlt := roundRat_natCast_lt_inf (k := x.toInt.natAbs) (by omega)
  have hne := roundRat_natCast_ne_zero (k := x.toInt.natAbs) (by omega)
  rw [value32, cvt32, decide_eq_true hx]
  by_cases he : e < 39
  · obtain ⟨n, d, hd, -, hmul⟩ := fmul32_withSign true true hlt (pow10_32_lt hlo he)
    rw [hmul, Bool.xor_self, withSign_false]
    exact roundRat_le_inf n hd
  · rw [pow10_32_of_ge (not_lt.1 he), fmul32_withSign_inf _ _ hlt, if_neg hne, Bool.xor_self, withSign_false]
    exact BitVec.le_refl _

theorem patternValue_zero : patternValue 0 = 0 := by
  rw [patternValue_of_lt (by decide)]
  simp [ulps]

theorem cvt32_zero : cvt32 0 = withSign false 0 := rfl

/-- Settles O36: two signs cancel, and a zero takes the sign of the scale or meets an infinity. -/
theorem signIsOnTheScale : Obligations.SignIsOnTheScale := by
  refine ⟨fun x e hlo _ hx => ?_, fun e hlo he => ?_, fun e s he _ => ?_⟩
  · have hle := value32_of_neg hx hlo
    exact ⟨getLsbD_of_le_inf hle, fun hnan => absurd (hnan ▸ hle) (by decide)⟩
  · obtain ⟨n, d, hd, hprod, hmul⟩ := fmul32_withSign (p := 0) false true (by decide) (pow10_32_lt hlo he)
    rw [patternValue_zero, zero_mul, div_eq_zero_iff] at hprod
    have hn : n = 0 := by exact_mod_cast hprod.resolve_right (by exact_mod_cast hd.ne')
    subst hn
    rw [value32, cvt32_zero, hmul, roundRat, if_pos rfl]
    rfl
  · rw [value32, cvt32_zero, pow10_32_of_ge he, fmul32_withSign_inf false s (by decide), if_pos rfl]
    rfl

end Sys2Proof.Proofs.Scale
end

section
/-! The DECODE command (spec 44_value_decode.md R180 to R193): what it reads, the checks in their order, and the reading. -/

namespace Sys2Proof.Proofs.ValueDecode

open Sys2Proof Sys2Proof.Machine

/-! ## The numbers in a message -/

/-- The register id is compared as a number (R182). -/
theorem half_eq_iff (hi lo : Byte) (reg : Half) : half hi lo = reg ↔ 256 * hi.toNat + lo.toNat = reg.toNat := by
  have htoNat : (half hi lo).toNat = 256 * hi.toNat + lo.toNat := by
    rw [half, BitVec.toNat_append, ← Nat.shiftLeft_add_eq_or_of_lt lo.isLt, Nat.shiftLeft_eq]
    omega
  rw [BitVec.toNat_eq, htoNat]

/-- A step of the accumulator is a step of the number, modulo `2^32` (R184). -/
theorem mantissaStep_ofNat (x : ℕ) (b : Byte) :
    mantissaStep (BitVec.ofNat 32 x) b = BitVec.ofNat 32 (256 * x + b.toNat) := by
  apply BitVec.eq_of_toNat_eq
  have hb := b.isLt
  have hshift : (x % 2 ^ 32) <<< 8 % 2 ^ 32 = (x % 2 ^ 24) <<< 8 := by
    rw [Nat.shiftLeft_eq, Nat.shiftLeft_eq]
    omega
  rw [mantissaStep, BitVec.toNat_or, BitVec.toNat_shiftLeft, BitVec.toNat_ofNat, BitVec.toNat_setWidth,
    BitVec.toNat_ofNat, hshift, Nat.mod_eq_of_lt (by omega : b.toNat < 2 ^ 32), ← Nat.shiftLeft_add_eq_or_of_lt hb,
    Nat.shiftLeft_eq]
  omega

/-- The accumulator holds the big-endian number, modulo `2^32` (R184). -/
theorem mantissa_eq_ofNat_bigEndian (bytes : List Byte) : mantissa 32 bytes = BitVec.ofNat 32 (bigEndian bytes) :=
  List.foldl_hom (BitVec.ofNat 32) (fun x b => mantissaStep_ofNat x b)

/-- The exponent magnitude is the remainder by 64 (R185). -/
theorem exponent_eq_exponentOf (se : Byte) : exponent se = exponentOf se := by
  have hmag : expMag se = se.toNat % 64 := by
    rw [expMag, BitVec.toNat_and]
    exact Nat.and_two_pow_sub_one_eq_mod _ 6
  rw [exponent, exponentOf, hmag]

theorem reading_eq_readingOf (msg : List Byte) :
    reading hw (msg.getD 5 0) (msg.getD 6 0) ((msg.drop 7).take (msg.getD 5 0).toNat) = readingOf msg := by
  have hmant := mantissa_eq_ofNat_bigEndian ((msg.drop 7).take (msg.getD 5 0).toNat)
  rw [readingOf, ← hmant, ← exponent_eq_exponentOf]
  rfl

/-! ## The checks -/

section

variable {s : State} {msg : List Byte} (hlen : msg.length = s.msgLen.toNat) (h : s.holds .msg 0 msg)

include h in
/-- A read below the message's length goes on with the byte there. -/
theorem needCell_msg {i : ℕ} (hi : i < msg.length) (k : Byte → StepResult) :
    needCell hw .msg i s k = k (msg.getD i 0) := by
  have hcell := (holds_iff ..).1 h i hi
  rw [Nat.zero_add] at hcell
  rw [needCell_some hcell, List.getD_eq_getElem _ _ hi]

include h in
/-- So does a read of several bytes. -/
theorem needCells_msg {i n : ℕ} (hn : i + n ≤ msg.length) (k : List Byte → StepResult) :
    needCells hw .msg i n s k = k ((msg.drop i).take n) := by
  have hslice : s.holds .msg i ((msg.drop i).take n) := (holds_iff ..).2 fun j hj => by
    rw [List.length_take, List.length_drop] at hj
    simpa using (holds_iff ..).1 h (i + j) (by omega)
  rw [State.holds, List.length_take, List.length_drop, Nat.min_eq_left (by omega)] at hslice
  exact needCells_some hslice k

include hlen h

/-- From the second length group on (R183 to R185). -/
theorem decodeNumber_eq :
    decodeNumber hw s =
      if msg.length < 7 then .next (s.raise .malformedLength 3)
      else if msg.length < 7 + (msg.getD 5 0).toNat then .next (s.raise .malformedLength 4)
      else .next (s.putReading (readingOf msg)).phaseDone := by
  rw [decodeNumber, ← hlen]
  refine ite_congr rfl (fun _ => rfl) fun h7 => ?_
  rw [needCell_msg h (by omega)]
  refine ite_congr rfl (fun _ => rfl) fun hn => ?_
  rw [needCell_msg h (by omega), needCells_msg (i := mantOff) h (not_lt.1 hn)]
  exact congrArg (fun r => (Host.Outcome.next (s.putReading r).phaseDone : StepResult)) (reading_eq_readingOf msg)

/-- From the register check on (R182, R183). -/
theorem decodeRegister_eq (reg : Half) :
    decodeRegister hw reg s =
      if msg.length < 4 then .next (s.raise .malformedLength 2)
      else if 256 * (msg.getD 2 0).toNat + (msg.getD 3 0).toNat ≠ reg.toNat then .next (s.raise .registerMismatch 0)
      else decodeNumber hw s := by
  rw [decodeRegister, ← hlen]
  refine ite_congr rfl (fun _ => rfl) fun h4 => ?_
  rw [needCell_msg h (by omega), needCell_msg h (by omega)]
  simp only [ne_eq, half_eq_iff]

end

/-- An error of the DECODE phase keeps the result registers (R43, R233). -/
theorem raise_setPhase_decode (s : State) (e : ErrorKind) (info : BitVec 4) :
    (s.setPhase .decode).raise e info = { s with entry := false, status := s.status.failed .decode e info } := rfl

theorem holds_setPhase {s : State} {b : Buffer} {i : ℕ} {bytes : List Byte} (h : s.holds b i bytes) :
    (s.setPhase .decode).holds b i bytes := (holds_congr (s := s) (t := s.setPhase .decode) rfl).2 h

/-- The phase is set, then the header is checked (R181, R192). -/
theorem exec_decode_eq {s : State} {msg : List Byte} (hlen : msg.length = s.msgLen.toNat) (h : s.holds .msg 0 msg)
    (reg : Half) :
    exec (.decode reg) s =
      if msg.length < 2 then .next ((s.setPhase .decode).raise .malformedLength 1)
      else if msg.getD 0 0 ≠ 0x3f ∨ msg.getD 1 0 ≠ 0x10 then .next ((s.setPhase .decode).raise .malformedHeader 0)
      else decodeRegister hw reg (s.setPhase .decode) := by
  have hphase := holds_setPhase h
  change decodePhase hw reg s = _
  simp only [decodePhase, setPhase_msgLen, ← hlen]
  refine ite_congr rfl (fun _ => rfl) fun h2 => ?_
  rw [needCell_msg hphase (by omega), needCell_msg hphase (by omega)]
  rfl

/-- Settles O35: the three parts of the phase, one after the other. -/
theorem decodeChecksInOrderThenReads : Obligations.DecodeChecksInOrderThenReads := by
  intro s reg msg hlen h
  have hphase := holds_setPhase h
  rw [exec_decode_eq hlen h, decodeRegister_eq (s := s.setPhase .decode) hlen hphase,
    decodeNumber_eq (s := s.setPhase .decode) hlen hphase]
  simp only [raise_setPhase_decode]
  rfl

end Sys2Proof.Proofs.ValueDecode
end

section
/-! How a command starts and goes on (spec 45_transaction.md R210 to R214, R219, R221): command accept, the step dispatched from CMD, an illegal word, and the end of a phase. -/

namespace Sys2Proof.Proofs.Transaction

open Sys2Proof Sys2Proof.Machine Sys2Proof.Proofs.Steps Sys2Proof.Proofs.Encoding Sys2Proof.Proofs.Decoding
  Sys2Proof.Proofs.HostWrites Sys2Proof.Proofs.Scope Sys2Proof.Proofs.Build

/-! ## The block's step -/

/-- Taking the act from the schedule leaves the registers of the block alone (R20). -/
theorem takeAction_cmd_status (s : State) : (takeAction s).cmd = s.cmd ∧ (takeAction s).status = s.status := by
  obtain ⟨_, _, _, _, _, he⟩ := outsideOnly_takeAction s
  rw [he]
  exact ⟨rfl, rfl⟩

/-- The first step of a command runs the command in CMD (R213). -/
theorem blockStep_first {s : State} {i : Instr} (hb : s.status.busy = true) (hp : s.status.phase = .noPhase)
    (hd : decodeWord s.cmd = .ok i) : blockStep s = exec i s := by
  simp [blockStep, firstStep, hb, hp, hd]

/-- The first step of an illegal word records the error (R213, R219). -/
theorem blockStep_illegal {s : State} {e : DecodeError} (hb : s.status.busy = true) (hp : s.status.phase = .noPhase)
    (hd : decodeWord s.cmd = .error e) : blockStep s = .next (s.raise .illegalCommand e.info) := by
  simp [blockStep, firstStep, hb, hp, hd]

/-- A later step goes by PHASE (R213). -/
theorem blockStep_later {s : State} (hb : s.status.busy = true) (hp : s.status.phase ≠ .noPhase) :
    blockStep s = phaseStep hw (regField s.cmd) s := by
  simp [blockStep, laterStep, hb, hp]

/-- Settles O5: the step is the block's, and taking its act leaves BUSY, PHASE and CMD. -/
theorem stepRunsTheCommandInCmd : Obligations.StepRunsTheCommandInCmd := by
  intro s i hnext hb hp hd
  obtain ⟨hcmd, hstatus⟩ := takeAction_cmd_status s
  have hstep : step s = blockStep (takeAction s) := by rw [step, hnext]; rfl
  rw [hstep]
  exact blockStep_first (by rw [hstatus, hb]) (by rw [hstatus, hp]) (by rw [hcmd, hd])

/-- A READREG in CMD has its register id in the field `reg` (R81). -/
theorem regField_of_decodeWord_readreg {w : Word} {addr : Byte} {reg : Half}
    (h : decodeWord w = .ok (.readreg addr reg)) : regField w = reg := by
  rw [← (decodeInvertsEncode w (.readreg addr reg)).1 h]
  exact regField_append _ reg

/-- Settles O6: CMD holds READREG, or SEND or RECV in its own phase, and the step by PHASE is the command's. -/
theorem laterStepsRunTheSameCommand : Obligations.LaterStepsRunTheSameCommand := by
  intro s i hinv hb hp hd
  rw [blockStep_later hb hp]
  rcases hinv.later hb hp with ⟨-, ⟨addr, reg, hreadreg⟩, -⟩ | ⟨-, hsend, hphase⟩ | ⟨-, hrecv, hphase⟩
  · cases hd.symm.trans hreadreg
    rw [exec_readreg_later hp, regField_of_decodeWord_readreg hreadreg]
  · cases hd.symm.trans hsend
    rw [phaseStep, hphase]
    rfl
  · cases hd.symm.trans hrecv
    rw [phaseStep, hphase]
    rfl

/-! ## Command accept -/

/-- VV after a word is accepted (R212). -/
theorem vv_and_not_clearsVv (vv : Bool) (w : Word) :
    (vv && !clearsVv w) = if w.extractLsb' 28 4 = 0x8#4 ∨ w.extractLsb' 28 4 = 0x9#4 then false else vv := by
  have hclears : clearsVv w = true ↔ w.extractLsb' 28 4 = 0x8#4 ∨ w.extractLsb' 28 4 = 0x9#4 := by
    simp [clearsVv, opField]
  cases h : clearsVv w with
  | true => rw [if_pos (hclears.1 h)]; simp
  | false => rw [if_neg (mt hclears.2 (by simp [h]))]; simp

/-- An idle block accepts any word (R212). -/
theorem hostWrite_cmd_of_idle {s : State} (hb : s.status.busy = false) (w : Word) :
    hostWrite hw 0x00 w s = acceptCommand w s :=
  hostWrite_of_idle rfl hb hw w

/-- Settles O8: offset 0x00 is writable; a busy block refuses the write and an idle one accepts the word. -/
theorem commandAccept : Obligations.CommandAccept := by
  refine fun s w => ⟨fun hb => ?_, fun hb => ?_⟩
  · rw [act_wr, hostWrite_of_busy rfl hb]
    rfl
  · rw [act_wr, hostWrite_cmd_of_idle hb, acceptCommand, vv_and_not_clearsVv]

/-- `illegal_info` by OP (R85, R231). -/
theorem info_of_opField (w : Word) :
    (if 0xA#4 ≤ opField w then DecodeError.reservedOpcode else .strayBits).info =
      if 0xA#4 ≤ w.extractLsb' 28 4 then 1 else 2 :=
  apply_ite DecodeError.info (0xA#4 ≤ opField w) .reservedOpcode .strayBits

/-- Settles O9: the word is accepted, its first step raises IllegalCommand, and in PHASE 0 that zeroes no length. -/
theorem illegalCommandChangesOnlyTheOutcome : Obligations.IllegalCommandChangesOnlyTheOutcome := by
  intro s w hb hunmatched
  have hdecode := decodeWord_of_unmatched (w := w) fun r hr => mt (selects_iff r w).1 (hunmatched r hr)
  refine ⟨acceptCommand w s, by rw [act_wr, hostWrite_cmd_of_idle hb], ?_⟩
  rw [← vv_and_not_clearsVv, ← info_of_opField]
  exact blockStep_illegal (s := acceptCommand w s) rfl rfl hdecode

/-! ## The end of a phase -/

/-- Settles O41: `phaseDone` is `complete` or `enterPhase`, by SEQ and the phase that follows. -/
theorem phaseDoneChainsOrCompletes : Obligations.PhaseDoneChainsOrCompletes := by
  refine fun s => ⟨phaseDone_of_not_seq, fun hseq p q hpq hp => ?_, fun _ hp => ?_⟩
  · have hfollows : ∀ x ∈ [(Phase.build, Phase.send), (.send, .recv), (.recv, .unstuff), (.unstuff, .decode)],
        x.1.following = some x.2 := by decide
    exact phaseDone_of_seq hseq (hp ▸ hfollows (p, q) hpq)
  · rw [Result.phaseDone_of_decode hp, ← hp]
    rfl

/-- The command has ended: nothing is left to run (R221). -/
def Ended (s : State) : Prop := s.status.busy = false ∧ s.entry = false

theorem ended_complete (s : State) : Ended s.complete := ⟨rfl, rfl⟩

theorem ended_raise (s : State) (e : ErrorKind) (info : BitVec 4) : Ended (s.raise e info) := ⟨rfl, rfl⟩

/-- A phase that is done ends a command that is no READREG (R214). -/
theorem ended_phaseDone {s : State} (h : s.status.seq = false) : Ended s.phaseDone := by
  rw [phaseDone_of_not_seq h]
  exact ended_complete s

/-- Settles O46, by the command: each of its outcomes completes, raises an error or is the end of a phase. -/
theorem oneStepCommandsEnd : Obligations.OneStepCommandsEnd := by
  intro i s t hsend hrecv hreadreg hseq ht
  change Ended t
  cases i with
  | nop | crcclr | crcbyte _ => cases ht; exact ended_complete _
  | crcmsg =>
    change crcMsgPhase hw s = .next t at ht
    rcases crcMsgPhase_cases hw s with ⟨bytes, -, e⟩ | ⟨i, -, -, e⟩ <;> rw [e] at ht <;> cases ht
    exact ended_complete _
  | build addr reg =>
    cases ht
    rw [buildPhase_hw]
    exact ended_phaseDone (s := built s addr reg) hseq
  | send => exact absurd rfl hsend
  | recv => exact absurd rfl hrecv
  | unstuff =>
    change unstuffPhase hw s = .next t at ht
    rcases unstuffPhase_cases hw s with ⟨i, -, e⟩ | ⟨p, -, e⟩ | ⟨p, -, e⟩ <;> rw [e] at ht <;> cases ht
    · exact ended_raise _ _ _
    · rcases checkCrc_cases ((s.setPhase .unstuff).keepPass p) p.msg with ⟨-, e⟩ | ⟨-, e⟩ <;> rw [e]
      · exact ended_raise _ _ _
      · exact ended_phaseDone hseq
  | decode reg =>
    change decodePhase hw reg s = .next t at ht
    rcases decodePhase_cases hw reg s with ⟨k, n, -, -, e⟩ | ⟨n, se, bytes, e⟩ | ⟨i, -, -, e⟩ <;> rw [e] at ht <;> cases ht
    · exact ended_raise _ _ _
    · exact ended_phaseDone hseq
  | readreg addr reg => exact absurd rfl (hreadreg addr reg)

/-! ## The first step of READREG -/

/-- READREG after its first step: the request is built and the SEND phase comes next (R213, R214, R216). -/
def readregBuilt (s : State) (addr : Byte) (reg : Half) : State := (built s.setSeq addr reg).enterPhase .send

theorem exec_readreg_of_noPhase {s : State} (hp : s.status.phase = .noPhase) (addr : Byte) (reg : Half) :
    exec (.readreg addr reg) s = .next (readregBuilt s addr reg) := by
  rw [exec_readreg_first hp, buildPhase_hw, phaseDone_of_seq (p := .send) rfl rfl]
  rfl

theorem readregBuilt_holds (s : State) (addr : Byte) (reg : Half) :
    (readregBuilt s addr reg).holds .tx 0 (frame (request addr reg)) ∧
      (readregBuilt s addr reg).holds .req 0 (request addr reg) := by
  have hmem : (readregBuilt s addr reg).mem = (built s.setSeq addr reg).mem := rfl
  obtain ⟨htx, hreq⟩ := built_holds s.setSeq addr reg
  exact ⟨(holds_congr hmem).2 htx, (holds_congr hmem).2 hreq⟩

/-- Settles O43: the step is that of BUILD with SEQ set, and `phase_done()` enters the SEND phase. -/
theorem readregBuildsFirst : Obligations.ReadregBuildsFirst := by
  intro s addr reg hp
  obtain ⟨htx, hreq⟩ := readregBuilt_holds s addr reg
  exact ⟨readregBuilt s addr reg, exec_readreg_of_noPhase hp addr reg, rfl, indexWithin_le ..,
    fun h => indexWithin_of_le h, hreq, htx, fun _ => read_built (s := s.setSeq)⟩

end Sys2Proof.Proofs.Transaction
end

section
/-! READREG phase by phase (spec 45_transaction.md R220): a step of READREG in one of its phases against the step of the single command of that phase. -/

namespace Sys2Proof.Proofs.Simulation

open Sys2Proof Sys2Proof.Machine Sys2Proof.Proofs.Steps Sys2Proof.Proofs.Build Sys2Proof.Proofs.Scope

/-! ## The single command's state -/

/-- The state as the single command in `w` sees it: another word in CMD and SEQ = 0 (R220). -/
def single (w : Word) (s : State) : State := { s with cmd := w, status := { s.status with seq := false } }

/-- States a phase of READREG and the single command start from: they agree but for the sequencing fields (R220). -/
structure Twins (s t : State) : Prop where
  same : s.withoutSequencing = t.withoutSequencing
  entry : s.entry = t.entry
  busy : s.status.busy = t.status.busy
  seq : t.status.seq = false

/-- Once PHASE is set they differ in CMD and SEQ only (R213, R220). -/
theorem Twins.setPhase_eq_single {s t : State} (h : Twins s t) (p : Phase) :
    t.setPhase p = single t.cmd (s.setPhase p) := by
  obtain ⟨hsame, hentry, hbusy, hseq⟩ := h
  obtain ⟨_, ⟨_, _, _, _, _, _, _, _⟩, _, _, _, _, _, _, _, _, _, _, _, _, _, _, _, _, _⟩ := s
  obtain ⟨_, ⟨_, _, _, _, _, _, _, _⟩, _, _, _, _, _, _, _, _, _, _, _, _, _, _, _, _, _⟩ := t
  simp_all [State.withoutSequencing, State.setPhase, single]

/-- An error is taken alike (R233). -/
theorem raise_single (w : Word) (s : State) (e : ErrorKind) (info : BitVec 4) :
    (single w s).raise e info = single w (s.raise e info) := by
  rw [raiseByPhase, raiseByPhase]
  rfl

theorem sendEntry_single (w : Word) (s : State) : (single w s).sendEntry = single w s.sendEntry := by
  rw [sendEntry_eq, sendEntry_eq]
  rfl

/-! ## Results that agree -/

/-- READREG runs phase `p`, with no error so far (R213). -/
structure Chained (p : Phase) (t : Status) : Prop where
  seq : t.seq = true
  phase : t.phase = p
  err : t.err = .ok
  info : t.info = 0

/-- A step that stays in its phase, or ends with an error in both. -/
theorem samePhaseResult_single {p : Phase} {s : State} (h : s.status.phase = p) (w : Word) :
    samePhaseResult p (.next s) (.next (single w s)) :=
  ⟨rfl, by simp [h, single]⟩

theorem samePhaseResult_raise {p : Phase} {s : State} (h : s.status.phase = p) (w : Word) (e : ErrorKind)
    (info : BitVec 4) : samePhaseResult p (.next (s.raise e info)) (.next ((single w s).raise e info)) := by
  have hphase : (s.raise e info).status.phase = p := by rw [raise_status, h]
  rw [raise_single]
  exact samePhaseResult_single hphase w

/-- No phase follows itself (R214). -/
theorem following_ne {p q : Phase} (h : p.following = some q) : q ≠ p := by
  rintro rfl
  cases q <;> cases h

/-- Where the phase is done READREG enters the next one or completes, and the single command completes (R214, R220). -/
theorem samePhaseResult_phaseDone {p : Phase} {s : State} (h : Chained p s.status) (w : Word) :
    samePhaseResult p (.next s.phaseDone) (.next (single w s).phaseDone) := by
  obtain ⟨hseq, hphase, herr, hinfo⟩ := h
  rw [phaseDone_of_not_seq (s := single w s) rfl]
  rcases phaseDone_cases s with ⟨hno, -⟩ | ⟨q, -, hq, e⟩ | ⟨-, -, e⟩
  · rw [hseq] at hno
    cases hno
  · have hleft : q ≠ p := following_ne (hphase ▸ hq)
    rw [e]
    refine ⟨?_, by simp [hleft]⟩
    simp [State.withoutSequencing, State.enterPhase, State.complete, State.finish, single, herr, hinfo]
  · rw [e]
    exact ⟨rfl, by simp⟩

/-- A test that comes out the same for both leaves their branches to compare. -/
theorem samePhaseResult_ite {p : Phase} {c : Prop} [Decidable c] {a a' b b' : StepResult}
    (h : c → samePhaseResult p a b) (h' : ¬c → samePhaseResult p a' b') :
    samePhaseResult p (if c then a else a') (if c then b else b') := by
  split
  · exact h ‹_›
  · exact h' ‹_›

/-- So does a test between next states. -/
theorem samePhaseResult_next_ite {p : Phase} {c : Prop} [Decidable c] {a a' b b' : State}
    (h : c → samePhaseResult p (.next a) (.next b)) (h' : ¬c → samePhaseResult p (.next a') (.next b')) :
    samePhaseResult p (.next (if c then a else a')) (.next (if c then b else b')) := by
  rw [apply_ite Host.Outcome.next, apply_ite Host.Outcome.next]
  exact samePhaseResult_ite h h'

/-- A cell is read alike, and an unwritten one stops both (R37). -/
theorem samePhaseResult_needCell {p : Phase} {c : Config} {b : Buffer} {i : Nat} {s : State} {w : Word}
    {k k' : Byte → StepResult} (h : ∀ v, samePhaseResult p (k v) (k' v)) :
    samePhaseResult p (needCell c b i s k) (needCell c b i (single w s) k') := by
  have hcell : (single w s).cell c b i = s.cell c b i := rfl
  cases hs : s.cell c b i with
  | none =>
    rw [needCell_none hs, needCell_none (hcell.trans hs)]
    rfl
  | some v =>
    rw [needCell_some hs, needCell_some (hcell.trans hs)]
    exact h v

/-- So are several cells. -/
theorem samePhaseResult_needCells {p : Phase} {c : Config} {b : Buffer} {i n : Nat} {s : State} {w : Word}
    {k k' : List Byte → StepResult} (h : ∀ vs, samePhaseResult p (k vs) (k' vs)) :
    samePhaseResult p (needCells c b i n s k) (needCells c b i n (single w s) k') := by
  induction n generalizing i k k' with
  | zero => exact h []
  | succ n ih => exact samePhaseResult_needCell fun v => ih fun vs => h (v :: vs)

/-! ## The five phases -/

section

variable {s : State} (w : Word)

theorem samePhaseResult_build (h : Chained .build s.status) (addr : Byte) (reg : Half) :
    samePhaseResult .build (.next (buildPhase hw addr reg s)) (.next (buildPhase hw addr reg (single w s))) := by
  rw [buildPhase_hw, buildPhase_hw]
  exact samePhaseResult_phaseDone (s := built s addr reg) ⟨h.seq, rfl, h.err, h.info⟩ w

/-- After a byte left, the phase is done or stays (R127). -/
theorem samePhaseResult_afterEmit (h : Chained .send s.status) :
    samePhaseResult .send (.next s.afterEmit) (.next (single w s).afterEmit) :=
  samePhaseResult_next_ite (fun _ => samePhaseResult_phaseDone h w)
    fun _ => samePhaseResult_single h.phase w

theorem samePhaseResult_sendStep (h : Chained .send s.status) :
    samePhaseResult .send (sendStep hw s) (sendStep hw (single w s)) := by
  have hentry : Chained .send s.sendEntry.status := by
    rw [sendEntry_status]
    exact ⟨h.seq, rfl, h.err, h.info⟩
  unfold sendStep
  rw [sendEntry_single]
  refine samePhaseResult_ite (fun _ => samePhaseResult_phaseDone hentry w) fun _ => samePhaseResult_ite (fun _ => ?_) fun _ =>
    samePhaseResult_single hentry.phase w
  exact samePhaseResult_needCell fun b => samePhaseResult_afterEmit (s := s.sendEntry.emit b) w hentry

/-- A popped byte is kept, ends the phase, or overflows (R142). -/
theorem samePhaseResult_appendRaw (h : Chained .recv s.status) (b : Byte) :
    samePhaseResult .recv (.next (appendRaw hw b s)) (.next (appendRaw hw b (single w s))) := by
  have hkept : Chained .recv (s.appended b).status := h
  refine samePhaseResult_next_ite
    (fun _ => samePhaseResult_raise h.phase w _ _) fun _ =>
    samePhaseResult_next_ite (fun _ => ?_) fun _ => ?_
  · exact samePhaseResult_phaseDone hkept w
  · exact samePhaseResult_single hkept.phase w

/-- The queue is the same for both (R142). -/
theorem samePhaseResult_takeByte (h : Chained .recv s.status) :
    samePhaseResult .recv (.next (takeByte hw s)) (.next (takeByte hw (single w s))) := by
  have hqueue : (single w s).env.rxQueue = s.env.rxQueue := rfl
  unfold takeByte
  rw [hqueue]
  cases s.env.rxQueue with
  | nil => exact samePhaseResult_single h.phase w
  | cons b rest =>
    refine samePhaseResult_next_ite (fun _ => ?_) fun _ => ?_
    · exact samePhaseResult_single (s := s.popped rest) h.phase w
    · exact samePhaseResult_appendRaw (s := s.popped rest) w h b

theorem samePhaseResult_recvStep (h : Chained .recv s.status) :
    samePhaseResult .recv (.next (recvStep hw s)) (.next (recvStep hw (single w s))) := by
  have hwaited : Chained .recv (s.waited hw).status := ⟨h.seq, rfl, h.err, h.info⟩
  refine samePhaseResult_next_ite (fun _ => ?_) fun _ =>
    samePhaseResult_next_ite (fun _ => ?_) fun _ => ?_
  · exact samePhaseResult_single (s := rxInit hw s) rfl w
  · exact samePhaseResult_raise hwaited.phase w _ _
  · exact samePhaseResult_takeByte w hwaited

/-- The CRC check fails, or the message is accepted (R166). -/
theorem samePhaseResult_checkCrc (h : Chained .unstuff s.status) (msg : List Byte) :
    samePhaseResult .unstuff (.next (s.checkCrc msg)) (.next ((single w s).checkCrc msg)) := by
  refine samePhaseResult_next_ite (fun _ => ?_) fun _ => ?_
  · exact samePhaseResult_phaseDone (s := (s.setCrc (crc16 msg)).setMsgLen (BitVec.ofNat 8 msg.length)) h w
  · exact samePhaseResult_raise (s := s.setCrc (crc16 msg)) h.phase w _ _

/-- The pass reads the same raw cells (R167). -/
theorem samePhaseResult_unstuffPhase (h : Chained .unstuff s.status) :
    samePhaseResult .unstuff (unstuffPhase hw s) (unstuffPhase hw (single w s)) := by
  have hkept : ∀ p, Chained .unstuff ((s.setPhase .unstuff).keepPass p).status :=
    fun p => ⟨h.seq, rfl, h.err, h.info⟩
  have hcells : ((single w s).setPhase .unstuff).cells hw .raw 0 ((single w s).setPhase .unstuff).rawLen.toNat =
      (s.setPhase .unstuff).cells hw .raw 0 (s.setPhase .unstuff).rawLen.toNat :=
    cells_congr (s := s.setPhase .unstuff) (t := (single w s).setPhase .unstuff) rfl ..
  unfold unstuffPhase
  simp only [hcells]
  cases unstuffPass hw.msgCap 0 ((s.setPhase .unstuff).cells hw .raw 0 (s.setPhase .unstuff).rawLen.toNat) .start with
  | unwritten i => rfl
  | overflow p => exact samePhaseResult_raise (hkept p).phase w _ _
  | done p => exact samePhaseResult_checkCrc w (hkept p) p.msg

/-- The message is read alike, and the checks decide alike (R192). -/
theorem samePhaseResult_decodeNumber (h : Chained .decode s.status) :
    samePhaseResult .decode (decodeNumber hw s) (decodeNumber hw (single w s)) := by
  refine samePhaseResult_ite (fun _ => samePhaseResult_raise h.phase w _ _) fun _ => samePhaseResult_needCell fun n =>
    samePhaseResult_ite (fun _ => samePhaseResult_raise h.phase w _ _) fun _ => samePhaseResult_needCell fun se =>
    samePhaseResult_needCells fun bytes => ?_
  exact samePhaseResult_phaseDone (s := s.putReading (reading hw n se bytes)) ⟨h.seq, h.phase, h.err, h.info⟩ w

theorem samePhaseResult_decodeRegister (h : Chained .decode s.status) (reg : Half) :
    samePhaseResult .decode (decodeRegister hw reg s) (decodeRegister hw reg (single w s)) :=
  samePhaseResult_ite (fun _ => samePhaseResult_raise h.phase w _ _) fun _ => samePhaseResult_needCell fun _ =>
    samePhaseResult_needCell fun _ => samePhaseResult_ite (fun _ => samePhaseResult_raise h.phase w _ _) fun _ =>
    samePhaseResult_decodeNumber w h

theorem samePhaseResult_decodePhase (h : Chained .decode s.status) (reg : Half) :
    samePhaseResult .decode (decodePhase hw reg s) (decodePhase hw reg (single w s)) := by
  have hphase : Chained .decode (s.setPhase .decode).status := ⟨h.seq, rfl, h.err, h.info⟩
  exact samePhaseResult_ite (fun _ => samePhaseResult_raise hphase.phase w _ _) fun _ => samePhaseResult_needCell fun _ =>
    samePhaseResult_needCell fun _ => samePhaseResult_ite (fun _ => samePhaseResult_raise hphase.phase w _ _) fun _ =>
    samePhaseResult_decodeRegister w hphase reg

end

/-- A phase sets PHASE first (R213), so it need only be compared on states that differ in CMD and SEQ. -/
theorem Twins.samePhaseResult {s t : State} (h : Twins s t) {p : Phase} {f : State → StepResult}
    (hf : ∀ u, f (u.setPhase p) = f u) (hs : Chained p (s.setPhase p).status)
    (hsingle : ∀ {u}, Chained p u.status → samePhaseResult p (f u) (f (single t.cmd u))) :
    samePhaseResult p (f s) (f t) := by
  have hresult := hsingle hs
  rwa [← h.setPhase_eq_single, hf, hf] at hresult

/-- Settles O44, by the phase: both commands take a step of it, and it is compared on twin states. -/
theorem readregIsItsFivePhases : Obligations.ReadregIsItsFivePhases := by
  intro s t addr reg hsame hentry herr hinfo hsbusy htbusy htseq
  have htwins : Twins s t := ⟨hsame, hentry, hsbusy.trans htbusy.symm, htseq⟩
  have hstarted : Twins s.setSeq t := ⟨hsame, hentry, hsbusy.trans htbusy.symm, htseq⟩
  have hchained : s.status.seq = true → ∀ p, Chained p (s.setPhase p).status := fun hseq p => ⟨hseq, rfl, herr, hinfo⟩
  have hlater : ∀ {p}, p ≠ .noPhase → s.status.phase = p → exec (.readreg addr reg) s = phaseStep hw reg s := by
    rintro p hp rfl
    exact exec_readreg_later hp addr reg
  refine ⟨fun hp => ?_, fun hseq hp => ?_, fun hseq hp => ?_, fun hseq hp => ?_, fun hseq hp => ?_⟩
  · rw [exec_readreg_first hp]
    exact hstarted.samePhaseResult (f := fun u => .next (buildPhase hw addr reg u)) (fun _ => rfl)
      ⟨rfl, rfl, herr, hinfo⟩ fun h => samePhaseResult_build t.cmd h addr reg
  · rw [hlater (by decide) hp, phaseStep, hp]
    exact htwins.samePhaseResult (f := sendStep hw) (fun _ => rfl) (hchained hseq .send)
      (samePhaseResult_sendStep t.cmd)
  · rw [hlater (by decide) hp, phaseStep, hp]
    exact htwins.samePhaseResult (f := fun u => .next (recvStep hw u)) (fun _ => rfl) (hchained hseq .recv)
      (samePhaseResult_recvStep t.cmd)
  · rw [hlater (by decide) hp, phaseStep, hp]
    exact htwins.samePhaseResult (f := unstuffPhase hw) (fun _ => rfl) (hchained hseq .unstuff)
      (samePhaseResult_unstuffPhase t.cmd)
  · rw [hlater (by decide) hp, phaseStep, hp]
    exact htwins.samePhaseResult (f := decodePhase hw reg) (fun _ => rfl) (hchained hseq .decode)
      fun h => samePhaseResult_decodePhase t.cmd h reg

end Sys2Proof.Proofs.Simulation
end

section
/-! A whole READREG transaction (spec 45_transaction.md R216, R218): the steps that send the request, and the steps that receive the response and read the value. -/

namespace Sys2Proof.Proofs.WholeTransaction

open Sys2Proof Sys2Proof.Machine Sys2Proof.Proofs.Encoding Sys2Proof.Proofs.Stuffing Sys2Proof.Proofs.Send
  Sys2Proof.Proofs.Receive Sys2Proof.Proofs.Unstuffing Sys2Proof.Proofs.ValueDecode Sys2Proof.Proofs.Transaction

/-- Steps that have been run go on with the steps that remain. -/
theorem runBlock_add {m : Nat} {s t : State} (h : runBlock m s = some t) (n : Nat) :
    runBlock (m + n) s = runBlock n t := by
  induction m generalizing s with
  | zero =>
    cases h
    rw [Nat.zero_add]
  | succ m ih =>
    rw [Nat.succ_add]
    cases hb : blockStep s with
    | next u =>
      rw [runBlock_succ hb] at h ⊢
      exact ih h
    | fault _ | refused _ =>
      rw [runBlock, hb] at h
      cases h

/-- READREG after a phase that began in `s`: what the single command leaves in `t`, with phase `q` next (R214, R220). -/
def goesOn (s t : State) (q : Phase) : State := { t with entry := true, status := { s.status with phase := q } }

/-- The step after a phase is a step of the next one (R213). -/
theorem blockStep_goesOn {s : State} {q : Phase} (hbusy : s.status.busy = true) (hq : q ≠ .noPhase) (t : State) :
    blockStep (goesOn s t q) = phaseStep hw (regField t.cmd) (goesOn s t q) :=
  blockStep_later (s := goesOn s t q) hbusy hq

/-! ## The SEND phase -/

/-- A byte that leaves first counts among those that left. -/
theorem goesOn_sentAll_emit (s : State) (b : Byte) (bytes : List Byte) (q : Phase) :
    goesOn (s.sendEntry.emit b) (sentAll (s.sendEntry.emit b) bytes) q = goesOn s (sentAll s (b :: bytes)) q := by
  rw [sentAll_emit]
  simp [goesOn]

/-- The last byte ends the SEND phase of a READREG (R127, R214). -/
theorem afterEmit_of_last_readreg {s : State} (hseq : s.status.seq = true) (hphase : s.status.phase = .send)
    (h : s.txIdx = s.txLen) : s.afterEmit = goesOn s (sentAll s []) .recv := by
  have hdone : s.afterEmit = s.enterPhase .recv :=
    (if_pos h).trans (phaseDone_of_seq hseq (by rw [hphase]; rfl))
  rw [hdone]
  simp [goesOn, sentAll, State.enterPhase, h]

/-- A READREG with the bytes `b :: bytes` left sends them in as many steps and goes on to the RECV phase (R127, R216). -/
theorem runBlock_readreg_send {b : Byte} {bytes : List Byte} {s : State} (hbusy : s.status.busy = true)
    (hphase : s.status.phase = .send) (hseq : s.status.seq = true) (hready : s.env.txReady = true)
    (hlen : s.sendEntry.txIdx.toNat + (bytes.length + 1) = s.txLen.toNat)
    (hold : s.holds .tx s.sendEntry.txIdx.toNat (b :: bytes)) :
    runBlock (bytes.length + 1) s = some (goesOn s (sentAll s (b :: bytes)) .recv) := by
  induction bytes generalizing b s with
  | nil =>
    obtain ⟨hcell, -⟩ := holds_cons.1 hold
    obtain ⟨hsend, hleft⟩ := sendStep_of_left hready hlen hcell
    rw [afterEmit_of_last_readreg (by simpa) (by simp) (BitVec.eq_of_toNat_eq hleft), goesOn_sentAll_emit] at hsend
    exact runBlock_succ ((blockStep_later_send hbusy hphase).trans hsend) 0
  | cons b' bytes ih =>
    obtain ⟨hcell, hrest⟩ := holds_cons.1 hold
    obtain ⟨hsend, hleft⟩ := sendStep_of_left hready hlen hcell
    have hidx : (s.sendEntry.emit b).sendEntry.txIdx = (s.sendEntry.emit b).txIdx := by simp
    have hnat : (s.sendEntry.emit b).txIdx.toNat = s.sendEntry.txIdx.toNat + 1 := by
      rw [emit_txLen, sendEntry_txLen] at hleft
      rw [List.length_cons] at hlen hleft
      omega
    have hmore : (s.sendEntry.emit b).afterEmit = s.sendEntry.emit b := if_neg fun e => by
      rw [e, List.length_cons] at hleft
      omega
    rw [hmore] at hsend
    rw [List.length_cons, runBlock_succ ((blockStep_later_send hbusy hphase).trans hsend), ← goesOn_sentAll_emit]
    refine ih (by simpa) (by simp) (by simpa) (by simpa) (by rw [hidx]; exact hleft) ?_
    rw [hidx, hnat]
    exact (holds_congr (s := s) (by simp)).2 hrest

/-! ## The RECV phase -/

/-- READREG between two bytes of the response: in RX_WAIT, within the window (R140, R142). -/
structure Receiving (s : State) : Prop where
  busy : s.status.busy = true
  phase : s.status.phase = .recv
  entry : s.entry = false
  seq : s.status.seq = true
  window : (s.env.nowMs - s.startMs).toNat ≤ 200

/-- A kept byte leaves it receiving. -/
theorem receiving_keptByte {s : State} (h : Receiving s) (b : Byte) (rest : List Byte) : Receiving (keptByte s b rest) :=
  ⟨h.busy, rfl, h.entry, h.seq, h.window⟩

theorem Receiving.blockStep_eq {s : State} (h : Receiving s) : blockStep s = .next (recvStep hw s) := by
  simp [blockStep, laterStep, phaseStep, h.busy, h.phase]

/-- A byte kept first counts among those kept. -/
theorem goesOn_receivedAll_keptByte {s : State} (hroom : s.rawLen.toNat < 50) (b : Byte)
    (queue bytes rest : List Byte) (q : Phase) :
    goesOn (keptByte s b queue) (receivedAll (keptByte s b queue) bytes rest) q =
      goesOn s (receivedAll s (b :: bytes) rest) q := by
  rw [receivedAll_keptByte hroom]
  rfl

/-- The 0x0d is kept and ends the RECV phase (R145, R214). -/
theorem phaseDone_keptByte_readreg {s : State} (h : Receiving s) (rest : List Byte) :
    (keptByte s termByte rest).phaseDone = goesOn s (receivedAll s [termByte] rest) .unstuff := by
  rw [phaseDone_of_seq (receiving_keptByte h termByte rest).seq rfl]
  rfl

/-- A READREG with a stream of other bytes and a 0x0d queued keeps one byte a step and goes on to the UNSTUFF phase (R142, R145, R216). -/
theorem runBlock_readreg_receive {stream rest : List Byte} {s : State} (h : Receiving s)
    (hstream : ∀ b ∈ stream, b ≠ startByte ∧ b ≠ termByte) (hq : s.env.rxQueue = stream ++ termByte :: rest)
    (hroom : s.rawLen.toNat + stream.length < 50) :
    runBlock (stream.length + 1) s = some (goesOn s (receivedAll s (stream ++ [termByte]) rest) .unstuff) := by
  induction stream generalizing s with
  | nil =>
    have hstep := recvStep_of_room h.entry h.window hq (by decide) hroom
    rw [if_pos rfl, phaseDone_keptByte_readreg h] at hstep
    exact runBlock_succ (h.blockStep_eq.trans (congrArg _ hstep)) 0
  | cons b stream ih =>
    obtain ⟨⟨hstart, hterm⟩, hstream'⟩ := List.forall_mem_cons.1 hstream
    rw [List.length_cons] at hroom
    have hlt : s.rawLen.toNat < 50 := by omega
    have hstep := recvStep_of_room h.entry h.window hq hstart hlt
    rw [if_neg hterm] at hstep
    rw [List.length_cons, runBlock_succ (h.blockStep_eq.trans (congrArg _ hstep)), List.cons_append,
      ← goesOn_receivedAll_keptByte hlt b (stream ++ termByte :: rest)]
    exact ih (receiving_keptByte h b _) hstream' rfl (by rw [keptByte_rawLen_toNat hlt]; omega)

/-! ## From the command to the request on the wire -/

/-- READREG once its request has been sent and the queue flushed (R216). -/
def requestSent (s : State) (addr : Byte) (reg : Half) : State :=
  rxInit hw (goesOn (readregBuilt s addr reg) (sentAll (readregBuilt s addr reg) (frame (request addr reg))) .recv)

/-- One step builds the request, one step a byte sends it, and one flushes the queue (R216). -/
theorem runBlock_requestSent {s : State} {addr : Byte} {reg : Half} (hbusy : s.status.busy = true)
    (hphase : s.status.phase = .noPhase) (hcmd : decodeWord s.cmd = .ok (.readreg addr reg))
    (hready : s.env.txReady = true) :
    runBlock ((frame (request addr reg)).length + 2) s = some (requestSent s addr reg) := by
  have hfirst := (blockStep_first hbusy hphase hcmd).trans (exec_readreg_of_noPhase hphase addr reg)
  have hidx : (readregBuilt s addr reg).sendEntry.txIdx = 0 := sendEntry_txIdx _
  have hlen : (readregBuilt s addr reg).txLen.toNat = (frame (request addr reg)).length := by
    have hfits := frame_fits addr reg
    exact Nat.mod_eq_of_lt (by omega)
  have hsend := runBlock_readreg_send (s := readregBuilt s addr reg) hbusy rfl rfl hready
    (by rw [hidx, hlen]; exact Nat.zero_add _) (by rw [hidx]; exact (readregBuilt_holds s addr reg).1)
  rw [runBlock_succ hfirst]
  have hflush := blockStep_goesOn (s := readregBuilt s addr reg) hbusy (q := .recv) (by decide)
    (sentAll (readregBuilt s addr reg) (frame (request addr reg)))
  exact (runBlock_add hsend 1).trans (runBlock_succ hflush 0)

/-! ## From the response to the reading -/

/-- A response to a READREG of `reg` that is received whole: its CRC is valid, it fits, and its fields are right (R181 to R183). -/
structure ValidResponse (reg : Half) (msg : List Byte) : Prop where
  crc : crc16 msg = 0
  long : 7 ≤ msg.length
  short : msg.length ≤ 40
  fits : (stuffAll msg).length < 50
  rspAddr : msg.getD 0 0 = 0x3f
  rspCmd : msg.getD 1 0 = 0x10
  register : half (msg.getD 2 0) (msg.getD 3 0) = reg
  mantissa : 7 + (msg.getD 5 0).toNat ≤ msg.length

/-- With its 0x0d it fits RAW (R33). -/
theorem ValidResponse.raw_fits {reg : Half} {msg : List Byte} (h : ValidResponse reg msg) :
    (stuffAll msg ++ [termByte]).length ≤ 50 :=
  List.length_append.trans_le h.fits

/-- A stuffed message has no start marker and no terminator (R122). -/
theorem stuffAll_plain (msg : List Byte) : ∀ b ∈ stuffAll msg, b ≠ startByte ∧ b ≠ termByte := by
  refine fun b hb => ⟨?_, ?_⟩ <;> rintro rfl
  · exact absurd (eq_escByte_of_mem_stuffAll hb (by decide)) (by decide)
  · exact absurd (eq_escByte_of_mem_stuffAll hb (by decide)) (by decide)

/-- The record of a pass over a stuffed message (R169). -/
def cleanPass (msg : List Byte) : Pass := { msg := msg, escw := false, cnt := 0, bad := 0 }

/-- UNSTUFF over a raw buffer that holds a stuffed message with a valid CRC (R167, R169). -/
theorem unstuffPhase_of_stuffed {s : State} {msg : List Byte} (hcrc : crc16 msg = 0) (hshort : msg.length ≤ 40)
    (hlen : (stuffAll msg ++ [termByte]).length = s.rawLen.toNat) (hraw : s.holds .raw 0 (stuffAll msg ++ [termByte])) :
    unstuffPhase hw s = .next (checked s (cleanPass msg)).phaseDone := by
  have hpass : rawPass s = .done (cleanPass msg) :=
    (rawPass_of_holds hlen hraw).trans (unstuffInvertsStuff 40 msg termByte hshort)
  exact (exec_unstuff_of_done hpass).trans (congrArg Host.Outcome.next (if_pos hcrc))

/-- The state a READREG leaves where DECODE reads `msg` in `s` (R192, R16). -/
def readAll (s : State) (msg : List Byte) : State :=
  { s with entry := false, result := readingOf msg, status := { s.status.ended .decode with vv := true } }

/-- DECODE of a valid response (R192). -/
theorem decodePhase_of_valid {s : State} {reg : Half} {msg : List Byte} (h : ValidResponse reg msg)
    (hlen : msg.length = s.msgLen.toNat) (hmsg : s.holds .msg 0 msg) :
    decodePhase hw reg s = .next (readAll s msg) := by
  have hexec := decodeChecksInOrderThenReads s reg msg hlen hmsg
  have hlong := h.long
  have hmant := h.mantissa
  have hheader : ¬(msg.getD 0 0 ≠ 0x3f ∨ msg.getD 1 0 ≠ 0x10) := not_or.2 ⟨not_not.2 h.rspAddr, not_not.2 h.rspCmd⟩
  have hregister := (half_eq_iff _ _ _).1 h.register
  dsimp only at hexec
  rw [if_neg (by omega), if_neg hheader, if_neg (by omega), if_neg (not_not.2 hregister), if_neg (by omega),
    if_neg (by omega), Result.phaseDone_of_decode rfl] at hexec
  exact hexec

/-- What a RECV keeps from an empty raw buffer on, in the millisecond it began (R142). -/
theorem receivedAll_of_empty {s : State} (hzero : s.rawLen = 0) (hnow : s.env.nowMs - s.startMs = 0)
    (bytes rest : List Byte) :
    receivedAll s bytes rest =
      { s with
        mem := (s.store .raw 0 bytes).mem
        rawLen := BitVec.ofNat 8 bytes.length
        env := { s.env with rxQueue := rest }
        elapsed := 0
        status := s.status.ended .recv } := by
  rw [receivedAll, sinceStart_hw, hzero, hnow, zero_add]
  rfl

/-- What a passed CRC check keeps (R166). -/
theorem checked_of_crc_eq_zero {s : State} {p : Pass} (hcrc : crc16 p.msg = 0) :
    checked s p = (((s.setPhase .unstuff).keepPass p).setCrc 0).setMsgLen (BitVec.ofNat 8 p.msg.length) := by
  rw [checked, hcrc, if_pos rfl]

/-- READREG once the stuffed message and its 0x0d have been received (R216). -/
def responseReceived (s : State) (msg : List Byte) : State :=
  goesOn s (receivedAll s (stuffAll msg ++ [termByte]) []) .unstuff

/-- READREG once the message has been unstuffed and its CRC checked (R216). -/
def responseChecked (s : State) (msg : List Byte) : State :=
  (checked (responseReceived s msg) (cleanPass msg)).enterPhase .decode

section

variable {s : State} {reg : Half} {msg : List Byte} (hvalid : ValidResponse reg msg) (hzero : s.rawLen = 0)

include hvalid hzero

/-- The stuffed message and its 0x0d are received one byte a step, held in RAW and counted by RAW_LEN (R142, R145). -/
theorem runBlock_responseReceived (h : Receiving s) (hq : s.env.rxQueue = stuffAll msg ++ [termByte]) :
    runBlock (stuffAll msg ++ [termByte]).length s = some (responseReceived s msg) := by
  have hroom : s.rawLen.toNat + (stuffAll msg).length < 50 := by
    rw [hzero]
    exact (Nat.zero_add _).trans_lt hvalid.fits
  rw [List.length_append]
  exact runBlock_readreg_receive h (stuffAll_plain msg) hq hroom

theorem responseReceived_holds :
    (stuffAll msg ++ [termByte]).length = (responseReceived s msg).rawLen.toNat ∧
      (responseReceived s msg).holds .raw 0 (stuffAll msg ++ [termByte]) := by
  have hfits := hvalid.raw_fits
  have hzero' : s.rawLen.toNat = 0 := by rw [hzero]; rfl
  have hraw := receivedAll_holds (s := s) (bytes := stuffAll msg ++ [termByte]) (by omega) []
  have hmem : (responseReceived s msg).mem = (receivedAll s (stuffAll msg ++ [termByte]) []).mem := rfl
  have hlen : (responseReceived s msg).rawLen = s.rawLen + BitVec.ofNat 8 (stuffAll msg ++ [termByte]).length := rfl
  rw [hzero'] at hraw
  refine ⟨?_, (holds_congr hmem).2 hraw⟩
  rw [hlen, hzero, zero_add, BitVec.toNat_ofNat]
  omega

/-- The step after the response unstuffs the message (R167, R214). -/
theorem blockStep_responseReceived (h : Receiving s) :
    blockStep (responseReceived s msg) = .next (responseChecked s msg) := by
  obtain ⟨hlen, hraw⟩ := responseReceived_holds hvalid hzero
  have hdone : (checked (responseReceived s msg) (cleanPass msg)).phaseDone = responseChecked s msg :=
    phaseDone_of_seq (s := checked (responseReceived s msg) (cleanPass msg)) h.seq rfl
  rw [← hdone, ← unstuffPhase_of_stuffed hvalid.crc hvalid.short hlen hraw]
  exact blockStep_goesOn h.busy (by decide) _

omit hzero in
/-- The step after that reads the value (R192, R16). -/
theorem blockStep_responseChecked (h : Receiving s) (hreg : regField s.cmd = reg) :
    blockStep (responseChecked s msg) = .next (readAll (responseChecked s msg) msg) := by
  have hlen : msg.length = (responseChecked s msg).msgLen.toNat := by
    have hmsgLen : (responseChecked s msg).msgLen = BitVec.ofNat 8 msg.length := if_pos hvalid.crc
    have hshort := hvalid.short
    rw [hmsgLen, BitVec.toNat_ofNat]
    omega
  have hmem : (responseChecked s msg).mem = (checked (responseReceived s msg) (cleanPass msg)).mem := rfl
  have hmsg := (holds_congr hmem).2 (holds_checked (p := cleanPass msg) hvalid.short)
  rw [← decodePhase_of_valid hvalid hlen hmsg, ← hreg]
  exact blockStep_goesOn (s := checked (responseReceived s msg) (cleanPass msg)) h.busy (by decide) _

/-- One step a byte receives the response, one unstuffs it, and one reads it (R216). -/
theorem runBlock_readAll (h : Receiving s) (hreg : regField s.cmd = reg)
    (hq : s.env.rxQueue = stuffAll msg ++ [termByte]) :
    runBlock ((stuffAll msg ++ [termByte]).length + 2) s = some (readAll (responseChecked s msg) msg) := by
  rw [runBlock_add (runBlock_responseReceived hvalid hzero h hq),
    runBlock_succ (blockStep_responseReceived hvalid hzero h), runBlock_succ (blockStep_responseChecked hvalid h hreg)]
  rfl

end

/-! ## The whole transaction -/

/-- The four buffers written from their first cells on, in the order of the phases (R216). -/
def storedAll (s : State) (req tx raw msg : List Byte) : State :=
  (((s.store .req 0 req).store .tx 0 tx).store .raw 0 raw).store .msg 0 msg

/-- Each buffer holds what was stored in it: the four are distinct storage (R273). -/
theorem storedAll_holds {req tx raw msg : List Byte} (hreq : req.length ≤ 7) (htx : tx.length ≤ 20)
    (hraw : raw.length ≤ 50) (hmsg : msg.length ≤ 40) (s : State) :
    (storedAll s req tx raw msg).holds .req 0 req ∧ (storedAll s req tx raw msg).holds .tx 0 tx ∧
      (storedAll s req tx raw msg).holds .raw 0 raw ∧ (storedAll s req tx raw msg).holds .msg 0 msg := by
  have hreq' : 0 + req.length ≤ Buffer.cap hw .req := (Nat.zero_add _).trans_le hreq
  have htx' : 0 + tx.length ≤ Buffer.cap hw .tx := (Nat.zero_add _).trans_le htx
  have hraw' : 0 + raw.length ≤ Buffer.cap hw .raw := (Nat.zero_add _).trans_le hraw
  have hmsg' : 0 + msg.length ≤ Buffer.cap hw .msg := (Nat.zero_add _).trans_le hmsg
  refine ⟨?_, ?_, ?_, holds_store hmsg'⟩
  · exact holds_store_other (by decide) hmsg' (holds_store_other (by decide) hraw'
      (holds_store_other (by decide) htx' (holds_store hreq')))
  · exact holds_store_other (by decide) hmsg' (holds_store_other (by decide) hraw' (holds_store htx'))
  · exact holds_store_other (by decide) hmsg' (holds_store hraw')

/-- No other byte is written. -/
theorem read_storedAll {s : State} {req tx raw msg : List Byte} {x : Nat} (hreq : ¬(0x10 ≤ x ∧ x < 0x10 + req.length))
    (htx : ¬(0x40 ≤ x ∧ x < 0x40 + tx.length)) (hraw : ¬(0x80 ≤ x ∧ x < 0x80 + raw.length))
    (hmsg : ¬(0xC0 ≤ x ∧ x < 0xC0 + msg.length)) :
    Memory.read (storedAll s req tx raw msg).mem x = Memory.read s.mem x := by
  calc Memory.read (storedAll s req tx raw msg).mem x
      = Memory.read (((s.store .req 0 req).store .tx 0 tx).store .raw 0 raw).mem x := sameOutside_store _ .msg 0 msg x hmsg
    _ = Memory.read ((s.store .req 0 req).store .tx 0 tx).mem x := sameOutside_store _ .raw 0 raw x hraw
    _ = Memory.read (s.store .req 0 req).mem x := sameOutside_store _ .tx 0 tx x htx
    _ = Memory.read s.mem x := sameOutside_store _ .req 0 req x hreq

/-- READREG once the peer has answered its request with the stuffed message and 0x0d, with no time passed (R218). -/
def responseQueued (s : State) (addr : Byte) (reg : Half) (msg : List Byte) : State :=
  (requestSent s addr reg).withEnv { (requestSent s addr reg).env with rxQueue := stuffAll msg ++ [termByte] }

section

variable (s : State) (addr : Byte) (reg : Half) (msg : List Byte)

theorem responseQueued_now : (responseQueued s addr reg msg).env.nowMs - (responseQueued s addr reg msg).startMs = 0 :=
  BitVec.sub_self s.env.nowMs

theorem receiving_responseQueued (hbusy : s.status.busy = true) : Receiving (responseQueued s addr reg msg) :=
  ⟨hbusy, rfl, rfl, rfl, by rw [responseQueued_now]; exact Nat.zero_le _⟩

/-- The phases write the four buffers and nothing else (R216). -/
theorem readAll_mem : (readAll (responseChecked (responseQueued s addr reg msg) msg) msg).mem =
    (storedAll s (request addr reg) (frame (request addr reg)) (stuffAll msg ++ [termByte]) msg).mem := rfl

end

/-- Settles O45, in the two halves of the transaction: `runBlock_requestSent` from the accepted word on, and `runBlock_readAll` once the response is queued. -/
theorem readregTransactionReadsTheValue : Obligations.ReadregTransactionReadsTheValue := by
  intro s addr reg msg hidle hready hcrc hlong hshort hfits haddr hcmd hreg hmant sent response
  have hvalid : ValidResponse reg msg := ⟨hcrc, hlong, hshort, hfits, haddr, hcmd, hreg, hmant⟩
  have hdec := decodeWord_encode (.readreg addr reg)
  have hsent : runBlock (sent.length + 2) (hostWrite hw 0x00 (encode (.readreg addr reg)) s) =
      some (requestSent (acceptCommand (encode (.readreg addr reg)) s) addr reg) := by
    rw [hostWrite_cmd_of_idle hidle]
    exact runBlock_requestSent rfl rfl hdec hready
  have hreceiving := receiving_responseQueued (acceptCommand (encode (.readreg addr reg)) s) addr reg msg rfl
  have hread := runBlock_readAll hvalid rfl hreceiving (regField_of_decodeWord_readreg hdec) rfl
  have hmem := readAll_mem (acceptCommand (encode (.readreg addr reg)) s) addr reg msg
  obtain ⟨hreqBuf, htxBuf, hrawBuf, hmsgBuf⟩ := storedAll_holds (request_length addr reg).le
    ((frame_fits addr reg).trans (by decide)) hvalid.raw_fits hshort
    (acceptCommand (encode (.readreg addr reg)) s)
  refine ⟨_, _, hsent, rfl, hread, ?_, (holds_congr hmem).2 hreqBuf, (holds_congr hmem).2 htxBuf,
    (holds_congr hmem).2 hrawBuf, (holds_congr hmem).2 hmsgBuf, fun x hreqOut htxOut hrawOut hmsgOut => ?_⟩
  · rw [responseChecked, checked_of_crc_eq_zero hcrc, responseReceived,
      receivedAll_of_empty rfl (responseQueued_now ..)]
    rfl
  · rw [hmem]
    exact read_storedAll hreqOut htxOut hrawOut hmsgOut

end Sys2Proof.Proofs.WholeTransaction
end

section
/-! A SEND phase whose peer accepts nothing (spec 60_exceptions.md R249 with 41_frame_encode.md R127): the state is a fixed point of the block step. -/

namespace Sys2Proof.Proofs.SendWait

open Sys2Proof Sys2Proof.Machine Sys2Proof.Proofs.Send

/-- A state that a block step leaves as it is stays so over any number of them. -/
theorem runBlock_of_fixed {s : State} (h : blockStep s = .next s) (n : Nat) : runBlock n s = some s := by
  induction n with
  | zero => rfl
  | succ n ih => rw [runBlock_succ h, ih]

/-- Inside a SEND phase its entry has nothing left to do: PHASE is 2 and TX_IDX is kept (R127). -/
theorem sendEntry_of_entered {s : State} (hphase : s.status.phase = .send) (hentry : s.entry = false) :
    s.sendEntry = s := by
  have hset : s.setPhase .send = s := by rw [State.setPhase, ← hphase]
  rw [State.sendEntry, hset, hentry]
  rfl

/-- With bytes left and a peer that does not accept, a later step of a SEND phase changes nothing (R127, R249). -/
theorem blockStep_of_waiting_send {s : State} (hbusy : s.status.busy = true) (hphase : s.status.phase = .send)
    (hentry : s.entry = false) (hleft : s.txIdx ≠ s.txLen) (hready : s.env.txReady = false) :
    blockStep s = .next s := by
  have hentered := sendEntry_of_entered hphase hentry
  calc blockStep s
      = sendStep hw s := blockStep_later_send hbusy hphase
    _ = .next s.sendEntry := sendStep_of_not_ready (by rwa [hentered]) hready hw
    _ = .next s := by rw [hentered]

/-- Settles O25: the waiting state is a fixed point of the block step (`blockStep_of_waiting_send`), so of any number of them. -/
theorem sendWaitsForThePeer : Obligations.SendWaitsForThePeer := by
  intro n s hbusy hphase hentry hleft hready
  exact runBlock_of_fixed (blockStep_of_waiting_send hbusy hphase hentry hleft hready) n

end Sys2Proof.Proofs.SendWait
end

section
/-! Reset (spec 70_reset_and_hazards.md R260, R261): the register values, and the reset input in any state. -/

namespace Sys2Proof.Proofs.Reset

open Sys2Proof Sys2Proof.Machine

/-- At reset no cell has a value: none has been written (R37, R260). -/
theorem cell_reset (c : Config) (b : Buffer) (i : Nat) : State.reset.cell c b i = none := ite_self none

/-- Settles O51: the registers are read off `State.reset`, and the reset act is `resetBlock` in every state. -/
theorem resetValues : Obligations.ResetValues :=
  ⟨⟨rfl, rfl, rfl, rfl, rfl, rfl, rfl, rfl, rfl, rfl, rfl, rfl, rfl, cell_reset hw⟩, fun _ => rfl⟩

end Sys2Proof.Proofs.Reset
end

section
/-! What no command changes (spec 70_reset_and_hazards.md R273 with 41_frame_encode.md R127 and 42_receive.md R142): only a BUILD phase draws, only a SEND phase transmits, only a RECV phase takes from the queue, and every store stays inside its buffer. -/

namespace Sys2Proof.Proofs.CommandFrame

open Sys2Proof Sys2Proof.Machine Sys2Proof.Proofs.Steps Sys2Proof.Proofs.HostSide

/-! ## The bytes outside the buffers -/

/-- Every byte outside the four buffers reads as before. -/
def KeepsUnmapped (s t : State) : Prop :=
  ∀ x : Nat, (∀ (b : Buffer) (k : Nat), k < b.cap hw → x ≠ b.base + k) → Memory.read t.mem x = Memory.read s.mem x

theorem keepsUnmapped_of_mem_eq {s t : State} (h : t.mem = s.mem) : KeepsUnmapped s t := fun _ _ => by rw [h]

theorem KeepsUnmapped.trans {s t u : State} (h : KeepsUnmapped s t) (h' : KeepsUnmapped t u) : KeepsUnmapped s u :=
  fun x hx => (h' x hx).trans (h x hx)

/-- A store inside a buffer writes bytes of that buffer only (R35). -/
theorem keepsUnmapped_store (s : State) {b : Buffer} {i : Nat} {bytes : List Byte} (h : i + bytes.length ≤ b.cap hw) :
    KeepsUnmapped s (s.store b i bytes) :=
  fun x hx => sameOutside_store s b i bytes x fun ⟨hlo, hhi⟩ => hx b (x - b.base) (by omega) (by omega)

/-- The request fills REQ (R125). -/
theorem keepsUnmapped_putRequest (s : State) (addr : Byte) (reg : Half) : KeepsUnmapped s (s.putRequest addr reg) :=
  keepsUnmapped_store (b := .req) s (i := 0) (bytes := request addr reg) (by decide : 0 + 7 ≤ _)

/-- A frame that fits stays inside TXBUF (R125). -/
theorem keepsUnmapped_putFrame (s : State) {f : List Byte} (h : f.length ≤ hw.txCap) : KeepsUnmapped s (s.putFrame f) :=
  keepsUnmapped_store (b := .tx) s (i := 0) (bytes := f) ((Nat.zero_add _).symm ▸ h)

/-- A received byte for which there is room stays inside RAW (R142). -/
theorem keepsUnmapped_appended {s : State} (h : s.rawLen.toNat < hw.rawCap) (b : Byte) :
    KeepsUnmapped s (s.appended b) :=
  keepsUnmapped_store (b := .raw) s (i := s.rawLen.toNat) (bytes := [b]) h

/-- A message within the capacity stays inside MSG (R161). -/
theorem keepsUnmapped_keepPass (s : State) {p : Pass} (h : p.msg.length ≤ hw.msgCap) : KeepsUnmapped s (s.keepPass p) :=
  keepsUnmapped_store (b := .msg) s (i := 0) (bytes := p.msg) ((Nat.zero_add _).symm ▸ h)

/-- The pass of an UNSTUFF phase writes no more than MSG holds, for RAW_LEN is a byte (R35, R164). -/
theorem unstuffPass_msg_fits {s : State} {p : Pass}
    (h : unstuffPass hw.msgCap 0 (s.cells hw .raw 0 s.rawLen.toNat) .start = .done p ∨
      unstuffPass hw.msgCap 0 (s.cells hw .raw 0 s.rawLen.toNat) .start = .overflow p) :
    p.msg.length ≤ hw.msgCap := by
  have hcells : 2 * Pass.start.cnt.toNat + (s.cells hw .raw 0 s.rawLen.toNat).length < 256 := by
    rw [cells_length]
    exact (Nat.zero_add _).trans_lt s.rawLen.isLt
  exact (unstuffPass_bounds _ _ _ _ p (Nat.zero_le _) hcells h).1

/-! ## Phases -/

/-- What a step may touch beside the block's registers and the four buffers, given whether it may draw, send or receive. -/
structure Footprint (mayDraw maySend mayReceive : Prop) (s t : State) : Prop where
  draws : t.draws = s.draws ∨ mayDraw
  wire : t.env.wire = s.env.wire ∨ ∃ b : Byte, t.env.wire = s.env.wire ++ [b] ∧ maySend
  queue : t.env.rxQueue = s.env.rxQueue ∨ mayReceive
  unmapped : KeepsUnmapped s t

section
variable {mayDraw maySend mayReceive : Prop} {s t : State}

/-- A step that leaves the environment neither sends nor receives. -/
theorem footprint_of_env_eq (hdraws : t.draws = s.draws ∨ mayDraw) (henv : t.env = s.env)
    (hunmapped : KeepsUnmapped s t) : Footprint mayDraw maySend mayReceive s t :=
  ⟨hdraws, .inl (by rw [henv]), .inl (by rw [henv]), hunmapped⟩

/-- A step on the block's registers alone touches nothing beside them. -/
theorem footprint_of_registers_only (hdraws : t.draws = s.draws) (henv : t.env = s.env) (hmem : t.mem = s.mem) :
    Footprint mayDraw maySend mayReceive s t :=
  footprint_of_env_eq (.inl hdraws) henv (keepsUnmapped_of_mem_eq hmem)

/-- SEQ is none of what a footprint speaks of. -/
theorem Footprint.of_setSeq (h : Footprint mayDraw maySend mayReceive s.setSeq t) :
    Footprint mayDraw maySend mayReceive s t := ⟨h.draws, h.wire, h.queue, h.unmapped⟩

/-- A BUILD phase draws, and stores its request and a frame that fits (R125; log entry 7). -/
theorem footprint_buildPhase (h : mayDraw) (addr : Byte) (reg : Half) (s : State) :
    Footprint mayDraw maySend mayReceive s (buildPhase hw addr reg s) := by
  have hreq := keepsUnmapped_putRequest s addr reg
  rcases buildPhase_cases hw addr reg s with ⟨-, e⟩ | ⟨hfits, e⟩ <;> rw [e]
  · exact footprint_of_env_eq (.inl (by simp)) (by simp) (hreq.trans (keepsUnmapped_of_mem_eq (raise_mem ..)))
  · exact footprint_of_env_eq (.inr h) (by simp)
      ((hreq.trans (keepsUnmapped_putFrame _ hfits)).trans (keepsUnmapped_of_mem_eq (phaseDone_mem _)))

/-- A SEND step transmits one byte or none (R127). -/
theorem footprint_sendStep (h : maySend) (ht : sendStep hw s = .next t) :
    Footprint mayDraw maySend mayReceive s t := by
  rcases sendStep_cases hw s with ⟨-, e⟩ | ⟨-, -, e⟩ | ⟨b, -, -, -, e⟩ | ⟨-, -, -, e⟩ <;> rw [e] at ht <;> cases ht
  · exact footprint_of_registers_only (by simp) (by simp) (by simp)
  · exact footprint_of_registers_only (by simp) (by simp) (by simp)
  · rcases afterEmit_cases (s.sendEntry.emit b) with ⟨-, e⟩ | ⟨-, e⟩ <;> rw [e] <;>
      exact ⟨.inl (by simp), .inr ⟨b, by simp, h⟩, .inl (by simp), keepsUnmapped_of_mem_eq (by simp)⟩

/-- An RX_WAIT step takes from the queue, and appends only below the capacity (R142, R145). -/
theorem footprint_rxWait (h : mayReceive) (s : State) : Footprint mayDraw maySend mayReceive s (rxWait hw s) := by
  rcases rxWait_cases hw s with
    ⟨-, e⟩ | ⟨-, -, e⟩ | ⟨rest, -, -, e⟩ | ⟨b, rest, -, -, -, -, e⟩ | ⟨b, rest, -, -, -, hroom, e⟩ <;> rw [e]
  · exact footprint_of_registers_only (by simp) (by simp) (by simp)
  · exact footprint_of_registers_only rfl rfl rfl
  · exact ⟨.inl rfl, .inl rfl, .inr h, keepsUnmapped_of_mem_eq rfl⟩
  · exact ⟨.inl (by simp), .inl (by simp), .inr h, keepsUnmapped_of_mem_eq (by simp)⟩
  · have happ : KeepsUnmapped s (((s.waited hw).popped rest).appended b) :=
      keepsUnmapped_appended (s := (s.waited hw).popped rest) hroom b
    split
    · exact ⟨.inl (by simp), .inl (by simp), .inr h, happ.trans (keepsUnmapped_of_mem_eq (phaseDone_mem _))⟩
    · exact ⟨.inl rfl, .inl rfl, .inr h, happ⟩

/-- A RECV step: RX_INIT empties the queue (R140, R141). -/
theorem footprint_recvStep (h : mayReceive) (s : State) : Footprint mayDraw maySend mayReceive s (recvStep hw s) := by
  unfold recvStep
  split
  · exact ⟨.inl rfl, .inl rfl, .inr h, keepsUnmapped_of_mem_eq rfl⟩
  · exact footprint_rxWait h s

theorem checkCrc_draws (s : State) (msg : List Byte) : (s.checkCrc msg).draws = s.draws := by
  rcases checkCrc_cases s msg with ⟨-, e⟩ | ⟨-, e⟩ <;> rw [e] <;> simp

theorem checkCrc_env (s : State) (msg : List Byte) : (s.checkCrc msg).env = s.env := by
  rcases checkCrc_cases s msg with ⟨-, e⟩ | ⟨-, e⟩ <;> rw [e] <;> simp

theorem checkCrc_mem (s : State) (msg : List Byte) : (s.checkCrc msg).mem = s.mem := by
  rcases checkCrc_cases s msg with ⟨-, e⟩ | ⟨-, e⟩ <;> rw [e] <;> simp

/-- An UNSTUFF phase writes its message into MSG (R167). -/
theorem footprint_unstuffPhase (ht : unstuffPhase hw s = .next t) : Footprint mayDraw maySend mayReceive s t := by
  rcases unstuffPhase_cases hw s with ⟨i, -, e⟩ | ⟨p, hpass, e⟩ | ⟨p, hpass, e⟩ <;> rw [e] at ht <;> cases ht
  · have hkeep := keepsUnmapped_keepPass (s.setPhase .unstuff) (unstuffPass_msg_fits (.inr hpass))
    exact footprint_of_env_eq (.inl (by simp)) (by simp) (hkeep.trans (keepsUnmapped_of_mem_eq (raise_mem ..)))
  · have hkeep := keepsUnmapped_keepPass (s.setPhase .unstuff) (unstuffPass_msg_fits (.inl hpass))
    exact footprint_of_env_eq (.inl (checkCrc_draws ..)) (checkCrc_env ..)
      (hkeep.trans (keepsUnmapped_of_mem_eq (checkCrc_mem ..)))

/-- A DECODE phase only reads MSG (R192). -/
theorem footprint_decodePhase {reg : Half} (ht : decodePhase hw reg s = .next t) :
    Footprint mayDraw maySend mayReceive s t := by
  rcases decodePhase_cases hw reg s with ⟨k, n, -, -, e⟩ | ⟨n, se, bytes, e⟩ | ⟨i, -, -, e⟩ <;> rw [e] at ht <;> cases ht
  · exact footprint_of_registers_only (by simp) (by simp) (by simp)
  · exact footprint_of_registers_only (by simp) (by simp) (by simp)

/-- A later step may send where it is a SEND phase's and receive where it is a RECV phase's (R213). -/
theorem footprint_phaseStep {reg : Half} (hsend : s.status.phase = .send → maySend)
    (hrecv : s.status.phase = .recv → mayReceive) (ht : phaseStep hw reg s = .next t) :
    Footprint mayDraw maySend mayReceive s t := by
  rcases phaseStep_cases hw reg s with ⟨hp, e⟩ | ⟨hp, e⟩ | ⟨-, e⟩ | ⟨-, e⟩ | ⟨-, e⟩ <;> rw [e] at ht
  · exact footprint_sendStep (hsend hp) ht
  · cases ht
    exact footprint_recvStep (hrecv hp) s
  · exact footprint_unstuffPhase ht
  · exact footprint_decodePhase ht
  · cases ht

/-- The CRC commands touch neither the environment nor a buffer (R107 to R109). -/
theorem footprint_crc (v : Half) : Footprint mayDraw maySend mayReceive s ((s.setPhase .crc).setCrc v).complete :=
  footprint_of_registers_only rfl rfl rfl

end

/-! ## Commands -/

/-- The command's step in this state is one of a BUILD phase (R213). -/
def InBuild (i : Instr) (s : State) : Prop :=
  ∃ addr reg, i = .build addr reg ∨ i = .readreg addr reg ∧ s.status.phase = .noPhase

/-- The command's step in this state is one of a SEND phase (R213). -/
def InSend (i : Instr) (s : State) : Prop := i = .send ∨ ∃ addr reg, i = .readreg addr reg ∧ s.status.phase = .send

/-- The command's step in this state is one of a RECV phase (R213). -/
def InRecv (i : Instr) (s : State) : Prop := i = .recv ∨ ∃ addr reg, i = .readreg addr reg ∧ s.status.phase = .recv

/-- A command draws, sends and receives in its BUILD, SEND and RECV phase only (R127, R142; log entry 7). -/
theorem footprint_exec {i : Instr} {s t : State} (ht : exec i s = .next t) :
    Footprint (InBuild i s) (InSend i s) (InRecv i s) s t := by
  cases i with
  | nop => cases ht; exact footprint_of_registers_only rfl rfl rfl
  | crcclr => cases ht; exact footprint_crc 0
  | crcbyte b => cases ht; exact footprint_crc _
  | crcmsg =>
    change crcMsgPhase hw s = .next t at ht
    rcases crcMsgPhase_cases hw s with ⟨bytes, -, e⟩ | ⟨i, -, -, e⟩ <;> rw [e] at ht <;> cases ht
    exact footprint_crc _
  | build addr reg => cases ht; exact footprint_buildPhase ⟨addr, reg, .inl rfl⟩ addr reg s
  | send => exact footprint_sendStep (.inl rfl) ht
  | recv => cases ht; exact footprint_recvStep (.inl rfl) s
  | unstuff => exact footprint_unstuffPhase ht
  | decode reg => exact footprint_decodePhase ht
  | readreg addr reg =>
    by_cases hp : s.status.phase = .noPhase
    · rw [exec_readreg_first hp] at ht
      cases ht
      exact (footprint_buildPhase ⟨addr, reg, .inr ⟨rfl, hp⟩⟩ addr reg s.setSeq).of_setSeq
    · rw [exec_readreg_later hp] at ht
      exact footprint_phaseStep (fun hsend => .inr ⟨addr, reg, rfl, hsend⟩) (fun hrecv => .inr ⟨addr, reg, rfl, hrecv⟩) ht

/-- Settles O59: what every command keeps (`keepsHostSide_exec`), and what only one phase touches (`footprint_exec`). -/
theorem noCommandTouchesTheRest : Obligations.NoCommandTouchesTheRest := by
  intro i s t ht
  obtain ⟨hcmd, hrej, hnow, hready, hprogram, hscript, hlog⟩ := keepsHostSide_exec ht
  obtain ⟨hdraws, hwire, hqueue, hunmapped⟩ := footprint_exec ht
  exact ⟨hcmd, hrej, hnow, hready, hprogram, hscript, hlog, hdraws, hwire, hqueue, hunmapped⟩

end Sys2Proof.Proofs.CommandFrame
end
